-- ==== Sys2Proof/Word.lean ====
section
/-! DEFINITION. The word types of the block (00_scope.md R7, R10). -/

namespace Sys2Proof

/-- A byte of a buffer, of flash or of the serial link. -/
abbrev Byte := BitVec 8

/-- A 16-bit accumulator word, ADC sample or block index (00_scope.md R7). -/
abbrev Half := BitVec 16

/-- A 32-bit MMIO register, command word or checksum (00_scope.md R7). -/
abbrev Word := BitVec 32

/-- A 12-bit offset into the MMIO aperture (00_scope.md R7). -/
abbrev Offset := BitVec 12

end Sys2Proof
end

