-- ==== Sys2Proof/Syntax.lean ====
section
/-! DEFINITION. The nine commands of spec/opcode_table.json and their operands (30_encoding.md R122, R123). -/

namespace Sys2Proof

/-- The buffer role an ECC command names: `R = 0` is the nand buffer, `R = 1` the rng buffer
(30_encoding.md R122). -/
inductive Role where
  | nand
  | rng
deriving DecidableEq, Repr

/-- One constructor per row of the opcode table; an operand is its sub-field of the command word
(30_encoding.md R122). -/
inductive Instr where
  /-- `NOP` (44_register_access.md R320). -/
  | nop
  /-- `ECC_GEN` (40_ecc.md R165). -/
  | eccGen (r : Role)
  /-- `ECC_VERIFY` (40_ecc.md R166). -/
  | eccVerify (r : Role)
  /-- `RNG_START` (41_rng.md R194). -/
  | rngStart
  /-- `RNG_BITS_START` (41_rng.md R196): first byte offset and byte count. -/
  | rngBitsStart (off len : BitVec 10)
  /-- `BUF_SWAP` (41_rng.md R199). -/
  | bufSwap
  /-- `TWIN_NEGOTIATE` (42_twin_negotiation.md R230): the force-master request. -/
  | twinNegotiate (force : Bool)
  /-- `TWIN_REPLICATE` (43_twin_replication.md R260). -/
  | twinReplicate
  /-- `BLOCK_CHECKSUM` (43_twin_replication.md R272): the block index. -/
  | blockChecksum (b : Half)
deriving DecidableEq, Repr

end Sys2Proof
end

