-- ==== Sys2Proof/WellFormed.lean ====
section
/-! DEFINITION. Which instructions have legal operands on some device (30_encoding.md R122, R126). The bound of
BLOCK_CHECKSUM by the device's own BLOCK_COUNT is checked by the meaning (Machine/Operands.lean). -/

namespace Sys2Proof

/-- The operand ranges of 30_encoding.md R122 that hold on every device: `OFF + LEN <= 528`, and a block index
other than the reserved block 0. -/
def Instr.wellFormed : Instr → Bool
  | .nop => true
  | .eccGen _ => true
  | .eccVerify _ => true
  | .rngStart => true
  | .rngBitsStart off len => decide (off.toNat + len.toNat ≤ 528)
  | .bufSwap => true
  | .twinNegotiate _ => true
  | .twinReplicate => true
  | .blockChecksum b => decide (b ≠ 0)

end Sys2Proof
end

