-- ==== Sys2Proof/Decode.lean ====
section
/-! DEFINITION. The command word's decoder and encoder (30_encoding.md R121 to R129). -/

namespace Sys2Proof

/-- Why a word is no command. -/
inductive Reject where
  /-- `OP` is in no row of 30_encoding.md R123 (R127). -/
  | illegalOpcode (op : Byte)
  /-- `OP` is assigned and a reserved bit of `ARG` is set (R125). -/
  | reservedBits (op : Byte)
deriving DecidableEq, Repr

/-- `OP = w[31:24]` (30_encoding.md R121). -/
def opOf (w : Word) : Byte := w.extractLsb' 24 8

/-- The bit of the sub-field `R` as a role (30_encoding.md R122). -/
def roleOfBit (b : Bool) : Role := if b then .rng else .nand

/-- The sub-field `R` of a role (30_encoding.md R122). -/
def bitOfRole : Role → Bool
  | .nand => false
  | .rng => true

/-- A command whose reserved bits (30_encoding.md R125) are `reserved`. -/
def checkReserved (op : Byte) {n : Nat} (reserved : BitVec n) (i : Instr) : Except Reject Instr :=
  if reserved = 0 then .ok i else .error (.reservedBits op)

/-- The decoder of 30_encoding.md R123 to R127, total on 32-bit words. It selects the command by `OP`, refuses
a set reserved bit, and leaves the operand ranges of R126 to the meaning. -/
def decode (w : Word) : Except Reject Instr :=
  let op := opOf w
  match op.toNat with
  | 0x00 => checkReserved op (w.extractLsb' 0 24) .nop
  | 0x01 => checkReserved op (w.extractLsb' 1 23) (.eccGen (roleOfBit (w.getLsbD 0)))
  | 0x02 => checkReserved op (w.extractLsb' 1 23) (.eccVerify (roleOfBit (w.getLsbD 0)))
  | 0x10 => checkReserved op (w.extractLsb' 0 24) .rngStart
  | 0x11 => checkReserved op (w.extractLsb' 20 4) (.rngBitsStart (w.extractLsb' 10 10) (w.extractLsb' 0 10))
  | 0x12 => checkReserved op (w.extractLsb' 0 24) .bufSwap
  | 0x20 => checkReserved op (w.extractLsb' 1 23) (.twinNegotiate (w.getLsbD 0))
  | 0x21 => checkReserved op (w.extractLsb' 0 24) .twinReplicate
  | 0x22 => checkReserved op (w.extractLsb' 16 8) (.blockChecksum (w.extractLsb' 0 16))
  | _ => .error (.illegalOpcode op)

/-- The opcode map of 30_encoding.md R123. -/
def opcode : Instr → Byte
  | .nop => 0x00
  | .eccGen _ => 0x01
  | .eccVerify _ => 0x02
  | .rngStart => 0x10
  | .rngBitsStart _ _ => 0x11
  | .bufSwap => 0x12
  | .twinNegotiate _ => 0x20
  | .twinReplicate => 0x21
  | .blockChecksum _ => 0x22

/-- The operand field `ARG` with every reserved bit 0 (30_encoding.md R122). -/
def argument : Instr → BitVec 24
  | .nop => 0
  | .eccGen r => (BitVec.ofBool (bitOfRole r)).setWidth 24
  | .eccVerify r => (BitVec.ofBool (bitOfRole r)).setWidth 24
  | .rngStart => 0
  | .rngBitsStart off len => (0 : BitVec 4) ++ off ++ len
  | .bufSwap => 0
  | .twinNegotiate f => (BitVec.ofBool f).setWidth 24
  | .twinReplicate => 0
  | .blockChecksum b => b.setWidth 24

/-- The word an instruction assembles to (30_encoding.md R121, R129). -/
def encode (i : Instr) : Word := opcode i ++ argument i

/-- What `decode` reads from an instruction whose bits are `w`, every bit from `nbits` up being 0. A command is
one 32-bit word (30_encoding.md R121), so a longer one is none. -/
def decodeTableWord (nbits w : Nat) : Option Instr :=
  if nbits ≤ 32 then
    match decode (BitVec.ofNat 32 (w % 2 ^ nbits)) with
    | .ok i => some i
    | .error _ => none
  else none

end Sys2Proof
end

