-- ==== Sys2Proof/Machine/Bits.lean ====
section
/-! DEFINITION. The bit operators of 00_scope.md R11 and the little-endian byte order of 20_memory.md R83. -/

namespace Sys2Proof.Machine

/-- `popcount(v)`: the number of 1 bits of `v` (00_scope.md R11). -/
def popcount {w : Nat} (v : BitVec w) : Nat :=
  (List.range w).countP (fun i => v.getLsbD i)

/-- `parity(v) = popcount(v) mod 2` as a bit (00_scope.md R11). -/
def parity {w : Nat} (v : BitVec w) : Bool :=
  decide (popcount v % 2 = 1)

/-- `rotl16(v, r) = ((v << r) | (v >> (16 - r)))[15:0]` (00_scope.md R11). -/
def rotl16 (v : Half) (r : Nat) : Half :=
  (v <<< r) ||| (v >>> (16 - r))

/-- Byte `k` of a value is its bits `8k+7 .. 8k` (20_memory.md R83, 92_eei_decisions.md D4). -/
def byteAt {w : Nat} (v : BitVec w) (k : Nat) : Byte :=
  v.extractLsb' (8 * k) 8

/-- A 16-bit value as two bytes, little-endian (20_memory.md R83). -/
def bytesOf16 (v : Half) : List Byte :=
  [byteAt v 0, byteAt v 1]

/-- A 32-bit value as four bytes, little-endian (20_memory.md R83). -/
def bytesOf32 (v : Word) : List Byte :=
  [byteAt v 0, byteAt v 1, byteAt v 2, byteAt v 3]

/-- `Recv16()`: the value of two bytes read low byte first (43_twin_replication.md, notation). -/
def ofBytes16 (lo hi : Byte) : Half := hi ++ lo

/-- The 32-bit value of four bytes read low byte first (30_encoding.md R140, frame CHKSM). -/
def ofBytes32 (b0 b1 b2 b3 : Byte) : Word := b3 ++ b2 ++ b1 ++ b0

end Sys2Proof.Machine
end

