-- ==== Sys2Proof/Machine/Event.lean ====
section
/-! DEFINITION. The steps of the agents of 00_scope.md R8 and the draws each step makes. -/

namespace Sys2Proof.Machine

/-- The width `n` of an MMIO read: 1 or 4 bytes (44_register_access.md R310). -/
inductive Width where
  | byte
  | word
deriving DecidableEq, Repr, Inhabited

/-- One HOST access: `MemRead(a, n)` or `MemWrite(a, n, v)` (44_register_access.md R310). -/
inductive Access where
  | read (a : Offset) (n : Width)
  | write8 (a : Offset) (v : Byte)
  | write32 (a : Offset) (v : Word)
deriving DecidableEq, Repr, Inhabited

/-- What a RESET step leaves open and the step draws (70_reset_and_hazards.md R371, R373): the new buffer
contents, the contents of the paragraph or block an outstanding flash request named, and whether an outstanding
bookkeeping request took effect. -/
structure ResetDraw where
  buffers : List Byte
  flashContent : List Byte
  bookTookEffect : Bool
deriving DecidableEq, Repr, Inhabited

/-- One atomic step of one agent (00_scope.md R8). -/
inductive Action where
  /-- HOST: one MMIO access. -/
  | host (a : Access)
  /-- SEQ: from one await to the next. -/
  | seq
  /-- ADC: one sample, a draw (10_state.md R54). -/
  | adc (sample : Half)
  /-- TIMER: one millisecond tick. -/
  | timer
  /-- UART_RX: one byte from the link. -/
  | uartRx
  /-- UART_TX: one entry of TXQ. -/
  | uartTx
  /-- FLASH: the result `ok`, a draw, and the content a failure leaves or a failed read returns (20_memory.md R92). -/
  | flash (ok : Bool) (content : List Byte)
  /-- BOOK: completes the outstanding bookkeeping request. -/
  | book
  /-- RESET (70_reset_and_hazards.md R370). -/
  | reset (draw : ResetDraw)
  /-- The USB_HOST pin takes a level (10_state.md R53). -/
  | usbHost (level : Bool)
deriving DecidableEq, Repr, Inhabited

/-- Whose agent steps: this device's or the twin's (00_scope.md R8, agent PEER). -/
inductive Side where
  | self
  | twin
deriving DecidableEq, Repr, Inhabited

/-- An agent step of one of the two devices. -/
structure Event where
  side : Side
  action : Action
deriving DecidableEq, Repr, Inhabited

end Sys2Proof.Machine
end

