-- ==== Sys2Proof/Config.lean ====
section
/-! DEFINITION. The parameters of 00_scope.md R6 and the one free value of the model, the schedule. -/

namespace Sys2Proof

/-- The OPEN parameters of 00_scope.md R6 (92_eei_decisions.md D16, D49, D58). State holds them, so every
statement is about every value of them (log entry 4). -/
structure Params where
  blockCount : Nat
  nSamples : Nat
  rxFifoDepth : Nat
deriving DecidableEq, Repr

/-- The constraints 00_scope.md R6 puts on the OPEN parameters. -/
def Params.legal (p : Params) : Bool :=
  decide (2 ≤ p.blockCount) && decide (p.blockCount ≤ 65536) &&
  decide (128 ≤ p.nSamples) && decide (p.nSamples ≤ 256) && decide (1 ≤ p.rxFifoDepth)

/-- DESIGN CHOICE (log entry 4), unsafe: the parameters State.reset takes. 2048 is the example of 00_scope.md R6,
128 what the test vectors use, 517 the depth of 70_reset_and_hazards.md R387. -/
def Params.default : Params := ⟨2048, 128, 517⟩

namespace Config

/-- `SETTLE_MS` (00_scope.md R6). -/
def settleMs : Nat := 1
/-- `BACKOFF_MIN` (00_scope.md R6). -/
def backoffMin : Nat := 3
/-- `BACKOFF_MAX` (00_scope.md R6). -/
def backoffMax : Nat := 67
/-- `WINDOW_MS` (00_scope.md R6). -/
def windowMs : Nat := 1000

/-- FREE VALUE (log entry 1): the `n`-th event the free scheduling of 00_scope.md R9 chooses, with every draw the
event makes (93_implementation_defined.md I7 to I11). Nothing constrains it. -/
opaque schedule : Nat → Machine.Event

end Config

end Sys2Proof
end

