-- ==== Sys2Proof/Machine/State.lean ====
section
/-! DEFINITION. Every piece of state the spec gives the machine (10_state.md R30 to R60), the persistent state of its
collaborators (20_memory.md R92, R96), the link and the twin (20_memory.md R91), and the machine after reset. -/

namespace Sys2Proof.Machine

/-- The connection state (10_state.md R47). -/
inductive Conn where
  | indeterminate
  | single
  | twinnedMaster
  | twinnedSlave
  | collision
deriving DecidableEq, Repr

/-- The replication state (10_state.md R48). -/
inductive Repl where
  | idle
  | running
  | finished
  | aborted
  | skipped
deriving DecidableEq, Repr

/-- The result of the last host ECC_VERIFY (10_state.md R49). -/
inductive EccRes where
  | none
  | noError
  | codeError
  | corrected
  | uncorrectable
deriving DecidableEq, Repr

/-- The ten bits of ERR (10_state.md R38). -/
inductive ErrBit where
  | illegalCmd
  | busy
  | badArg
  | role
  | rngBusy
  | swapBusy
  | bufBusy
  | access
  | protocol
  | rxOverflow
deriving DecidableEq, Repr

/-- The status of a block in the usage map (20_memory.md R96). -/
inductive BlockStatus where
  | unused
  | used
  | bad
deriving DecidableEq, Repr

/-- The names of the write-once flags (00_scope.md R14). -/
inductive Flag where
  | headerWritten
  | randomDataStarted
  | randomDataFinished
deriving DecidableEq, Repr

/-- The write-once flags as `FlagIsSet` reports them (20_memory.md R96, R97). -/
structure Flags where
  headerWritten : Bool
  randomDataStarted : Bool
  randomDataFinished : Bool
deriving DecidableEq, Repr

/-- A request on the flash port (20_memory.md R92): block, page, paragraph, and the bytes to program. -/
inductive FlashRequest where
  | erase (b : Nat)
  | program (b pg q : Nat) (bytes : List Byte)
  | read (b pg q : Nat)
deriving DecidableEq, Repr

/-- What a completed flash request returns (20_memory.md R92): `ok`, and the bytes of a read. -/
structure FlashResult where
  ok : Bool
  bytes : List Byte
deriving DecidableEq, Repr

/-- A request on the bookkeeping port (20_memory.md R96). -/
inductive BookRequest where
  | blockStatus (b : Nat)
  | markBad (b : Nat)
  | flagIsSet (f : Flag)
  | setFlag (f : Flag)
deriving DecidableEq, Repr

/-- What a completed bookkeeping request returns (20_memory.md R96). -/
inductive BookResult where
  | status (st : BlockStatus)
  | flag (set : Bool)
  | done
deriving DecidableEq, Repr

/-- An entry of TXQ: a literal byte, or a reference to `BUF[p][i]` read when transmitted (10_state.md R56). -/
inductive TxEntry where
  | lit (x : Byte)
  | ref (p : Bool) (i : Nat)
deriving DecidableEq, Repr

/-- The awaits of a negotiation round (42_twin_negotiation.md R232 to R236). -/
inductive NegPoint where
  /-- R232: `await NEG_T >= SETTLE_MS`. -/
  | settle
  /-- R233: `await RNG_DONE == 1`. -/
  | sample
  /-- R234: `await RXQ != [] or NEG_T >= d`. -/
  | listen
  /-- R236: `await RXQ != [] or NEG_T >= WINDOW_MS`. -/
  | window
deriving DecidableEq, Repr

/-- The locals of `Checksum(b)` at its await of `FlashRead(b, pg, q)` (43_twin_replication.md R270). -/
structure ChecksumLoop where
  b : Nat
  pg : Nat
  q : Nat
  sum : Word
deriving DecidableEq, Repr

/-- The awaits of a replication run with its locals (43_twin_replication.md R260 to R269). -/
inductive RunPoint where
  /-- R262: `FlagIsSet(random_data_finished)`. -/
  | checkFinished
  /-- R262: `FlagIsSet(random_data_started)`. -/
  | checkStarted
  /-- R262: `SetFlag(random_data_started)`. -/
  | setStarted
  /-- R262: `await STREAM_ACTIVE == 0` before the first stream. -/
  | firstStream
  /-- R260: `BlockStatus(b)`. -/
  | status (b : Nat)
  /-- R263: `Expect(0x6D)` of SkipBad. -/
  | skipAck (b : Nat)
  /-- R264: `FlashErase(b)`. -/
  | erasing (b : Nat)
  /-- R265: `await STREAM_ACTIVE == 0` of a paragraph. -/
  | fill (b pg q : Nat) (bad : Bool)
  /-- R265: `FlashProgram(b, pg, q, ..)`, reached only with `bad = 0`. -/
  | programming (b pg q : Nat)
  /-- R265: `Expect(0x64)`. -/
  | dataAck (b pg q : Nat) (bad : Bool)
  /-- R267: `Recv()` of the reply's token. -/
  | auditReply (b : Nat) (bad : Bool)
  /-- R267: `Recv()` of the bytes s0..s3; `got` are those read so far. -/
  | auditSum (b : Nat) (bad : Bool) (got : List Byte)
  /-- R267: the master's own `Checksum(b)`; `remote` is the slave's sum, none for CHKSM_BAD. -/
  | auditRead (remote : Option Word) (c : ChecksumLoop)
  /-- R267: `MarkBad(b)`, twinned. -/
  | auditMark (b : Nat)
  /-- R267: `Expect(0x6D)` of the audit. -/
  | markAck (b : Nat)
  /-- R267: `MarkBad(b)`, not twinned. -/
  | localMark (b : Nat)
  /-- R269: `SetFlag(random_data_finished)`. -/
  | finishing
deriving DecidableEq, Repr

/-- The awaits of a slave frame (43_twin_replication.md R277 to R281). -/
inductive SlavePoint where
  /-- `Recv()` of the next payload byte. -/
  | payload
  /-- R279: `FlagIsSet(random_data_started)`. -/
  | checkStarted
  /-- R279: `SetFlag(random_data_started)`. -/
  | setStarted
  /-- R279: `FlashErase(b)`. -/
  | erasing
  /-- R279: `FlashProgram(b, pg, q, ..)`. -/
  | programming
  /-- R280: `Checksum(b)`. -/
  | checksum (c : ChecksumLoop)
  /-- R281: `MarkBad(b)`. -/
  | marking
deriving DecidableEq, Repr

/-- The slave frame state (10_state.md R51): the token, the payload bytes so far, and the await. -/
structure SlaveFrame where
  token : Byte
  payload : List Byte
  point : SlavePoint
deriving DecidableEq, Repr

/-- The phase together with its continuation point (10_state.md R31). The phase itself is `SeqPoint.phase`
(log entry 16). -/
inductive SeqPoint where
  | idle
  | negotiating (p : NegPoint)
  | replicating (twinned : Bool) (p : RunPoint)
  | checksumming (c : ChecksumLoop)
  | slaveFrame (f : SlaveFrame)
deriving DecidableEq, Repr

/-- One device: the block's state (10_state.md R60), its parameters and pin, and the persistent state of its own
flash and bookkeeping (10_state.md R59). -/
structure Device where
  /-- The parameters of 00_scope.md R6; no step writes them. -/
  params : Params
  /-- The USB_HOST input pin (10_state.md R53). -/
  usbHost : Bool
  /-- MODEL'S OWN (log entry 9): what the last HOST read returned. -/
  readData : Word
  /-- phase and continuation (10_state.md R31). -/
  seq : SeqPoint
  /-- The outstanding flash request (10_state.md R33). -/
  flashReq : Option FlashRequest
  /-- MODEL'S OWN (log entry 10): the answer the sequencer has not read yet. -/
  flashResult : Option FlashResult
  /-- The outstanding bookkeeping request (10_state.md R33). -/
  bookReq : Option BookRequest
  /-- MODEL'S OWN (log entry 10): the answer the sequencer has not read yet. -/
  bookResult : Option BookResult
  /-- ECC_CODE (10_state.md R36). -/
  eccCode : Word
  /-- ECC_SYN[24:0] (10_state.md R37). -/
  eccSyn : BitVec 25
  /-- ERR[9:0] (10_state.md R38). -/
  err : BitVec 10
  /-- CHKSUM (10_state.md R39). -/
  chksum : Word
  /-- ACC[0..7] (10_state.md R42). -/
  acc : Vector Half 8
  /-- RNG_ARMED (10_state.md R43). -/
  rngArmed : Bool
  /-- RNG_DONE (10_state.md R43). -/
  rngDone : Bool
  /-- SCOUNT (10_state.md R43). -/
  scount : Nat
  /-- SEL, the buffer of the nand role (10_state.md R44). -/
  sel : Bool
  /-- BUF[0] and BUF[1] (10_state.md R45): byte (p, i) at key p * 528 + i. -/
  buf : List Host.Cell
  /-- STREAM_ACTIVE (10_state.md R46). -/
  streamActive : Bool
  /-- SOFF (10_state.md R46). -/
  soff : Nat
  /-- SREM (10_state.md R46). -/
  srem : Nat
  /-- CONN (10_state.md R47). -/
  conn : Conn
  /-- REPL (10_state.md R48). -/
  repl : Repl
  /-- CUR_BLOCK (10_state.md R48). -/
  curBlock : Half
  /-- ECC_RES (10_state.md R49). -/
  eccRes : EccRes
  /-- CHK_OK (10_state.md R49). -/
  chkOk : Bool
  /-- NEG_T (10_state.md R50). -/
  negT : Nat
  /-- NEG_D (10_state.md R50). -/
  negD : Nat
  /-- NEG_FORCE (10_state.md R50). -/
  negForce : Bool
  /-- NEG_PRIO (10_state.md R50). -/
  negPrio : Bool
  /-- NEG_ROUNDS (10_state.md R50). -/
  negRounds : Nat
  /-- RXQ, oldest first (10_state.md R55). -/
  rxq : List Byte
  /-- TXQ, oldest first (10_state.md R56). -/
  txq : List TxEntry
  /-- Flash contents (20_memory.md R92): byte j of a paragraph at key ParagraphAddress * 528 + j. -/
  flash : List Host.Cell
  /-- The block usage map (20_memory.md R96): status by block index. -/
  usage : List (Nat × BlockStatus)
  /-- The write-once flags (20_memory.md R96). -/
  flags : Flags
deriving DecidableEq, Repr

/-- The machine: this device, the twin if one is attached, the bytes in flight on the link, and the events to come. -/
structure State where
  /-- This device. -/
  dev : Device
  /-- The twin: another instance of the block, or absent (00_scope.md R8). -/
  twin : Option Device
  /-- Bytes this device put on the link and the twin has not been offered yet, oldest first (20_memory.md R91). -/
  lineOut : List Byte
  /-- Bytes the twin put on the link and this device has not been offered yet, oldest first (20_memory.md R91). -/
  lineIn : List Byte
  /-- MODEL'S OWN (log entry 1): events already chosen, the next one first. -/
  pending : List Event
  /-- MODEL'S OWN (log entry 1): how many events were drawn from Config.schedule. -/
  eventCount : Nat
deriving DecidableEq, Repr

/-- Nothing stops the machine: every error is recorded in ERR and no control is transferred (60_exceptions.md R340,
R347), so no step raises a fault (log entry 17). Safe: there is nothing a claim could hide behind. -/
inductive Fault where
deriving DecidableEq, Repr

/-- Why an instruction has no meaning. -/
inductive Refusal where
  /-- Raised by an arm of exec whose instruction is not modelled yet. No arm raises it. Safe. -/
  | notModelled (mnemonic : String)
deriving DecidableEq, Repr

/-- A device after reset (10_state.md R60), with parameters `p`. The rows R60 leaves open and the collaborators'
contents are DESIGN CHOICE, unsafe: the buffers are zero (log entry 3), the pin is 0 (log entry 5), the flash is
erased (log entry 6), the bookkeeping is blank (log entry 7), the read data is 0 (log entry 9). -/
def Device.fresh (p : Params) : Device where
  params := p
  usbHost := false
  readData := 0
  seq := .idle
  flashReq := none
  flashResult := none
  bookReq := none
  bookResult := none
  eccCode := 0
  eccSyn := 0
  err := 0
  chksum := 0
  acc := Vector.replicate 8 0
  rngArmed := false
  rngDone := false
  scount := 0
  sel := false
  buf := []
  streamActive := false
  soff := 0
  srem := 0
  conn := .indeterminate
  repl := .idle
  curBlock := 0
  eccRes := .none
  chkOk := false
  negT := 0
  negD := 0
  negForce := false
  negPrio := false
  negRounds := 0
  rxq := []
  txq := []
  flash := []
  usage := []
  flags := ⟨false, false, false⟩

/-- The machine right after reset (70_reset_and_hazards.md R370), with no twin attached. DESIGN CHOICE, unsafe: the
parameters (log entry 4), the absent twin (log entry 8), an empty link (log entry 14), no event chosen yet (log
entry 1). -/
def State.reset : State where
  dev := Device.fresh Params.default
  twin := none
  lineOut := []
  lineIn := []
  pending := []
  eventCount := 0

/-- The other configuration of 93_implementation_defined.md I12: two blocks joined by the link, both reset
(log entry 8). -/
def State.resetTwinned : State :=
  { State.reset with twin := some (Device.fresh Params.default) }

end Sys2Proof.Machine
end

