-- ==== Sys2Proof/Machine/Memory.lean ====
section
/-! DEFINITION. The paragraph buffers, the flash and the block usage map as lists of (key, value) in one canonical
form, and the operations over them (20_memory.md R80, R81, R86, R92, R96). -/

namespace Sys2Proof.Machine

/-- What key `a` of the list reads as: its entry, or `dflt` where it is unlisted. -/
def Sparse.read {β : Type} (dflt : β) : List (Nat × β) → Nat → β
  | [], _ => dflt
  | (k, v) :: rest, a => if a = k then v else Sparse.read dflt rest a

/-- Puts an entry at its place in rising order of keys, in place of an entry of the same key. -/
def Sparse.put {β : Type} : List (Nat × β) → Nat → β → List (Nat × β)
  | [], a, v => [(a, v)]
  | (k, w) :: rest, a, v =>
    if a < k then (a, v) :: (k, w) :: rest
    else if a = k then (a, v) :: rest
    else (k, w) :: Sparse.put rest a v

/-- Unlists every key from `lo` to `lo + n - 1`. -/
def Sparse.clear {β : Type} (m : List (Nat × β)) (lo n : Nat) : List (Nat × β) :=
  m.filter (fun c => !(decide (lo ≤ c.1) && decide (c.1 < lo + n)))

/-- Writes one key; writing the value an unlisted key reads as unlists it. -/
def Sparse.write {β : Type} [DecidableEq β] (dflt : β) (m : List (Nat × β)) (a : Nat) (v : β) : List (Nat × β) :=
  if v = dflt then Sparse.clear m a 1 else Sparse.put m a v

/-- Every key is above `lo`, the keys rise strictly, and no entry equals what an unlisted key reads as. -/
def Sparse.wfFrom {β : Type} [DecidableEq β] (dflt : β) : Nat → List (Nat × β) → Bool
  | _, [] => true
  | lo, (k, v) :: rest => decide (lo ≤ k) && decide (v ≠ dflt) && Sparse.wfFrom dflt (k + 1) rest

/-- The canonical form. -/
def Sparse.wf {β : Type} [DecidableEq β] (dflt : β) (m : List (Nat × β)) : Bool :=
  Sparse.wfFrom dflt 0 m

/-- The two byte memories a device holds (20_memory.md R80). -/
inductive Space where
  | buffers
  | flash
deriving DecidableEq, Repr

/-- What an unlisted byte reads as: 0x00 in the buffers (log entry 3), 0xFF, the erased state, in flash (20_memory.md
R93, log entry 6). -/
def unlistedByte : Space → Byte
  | .buffers => 0x00
  | .flash => 0xFF

/-- What an unlisted block's status is (log entry 7). -/
def unlistedStatus : BlockStatus := .unused

/-- Reads one byte. -/
def Memory.read (sp : Space) (m : List Host.Cell) (a : Nat) : Byte :=
  Sparse.read (unlistedByte sp) m a

/-- Writes one byte. -/
def Memory.write (sp : Space) (m : List Host.Cell) (a : Nat) (v : Byte) : List Host.Cell :=
  Sparse.write (unlistedByte sp) m a v

/-- The canonical form of a byte memory. -/
def Memory.wf (sp : Space) (m : List Host.Cell) : Bool :=
  Sparse.wf (unlistedByte sp) m

/-- Reads `n` bytes from `base` up. -/
def Memory.readBytes (sp : Space) (m : List Host.Cell) (base n : Nat) : List Byte :=
  (List.range n).map (fun i => Memory.read sp m (base + i))

/-- Writes the bytes of a list from `base` up. -/
def Memory.writeBytes (sp : Space) (m : List Host.Cell) (base : Nat) : List Byte → List Host.Cell
  | [] => m
  | x :: xs => Memory.writeBytes sp (Memory.write sp m base x) (base + 1) xs

/-- Makes `n` bytes from `base` up read as unlisted ones do. -/
def Memory.clearBytes (m : List Host.Cell) (base n : Nat) : List Host.Cell :=
  Sparse.clear m base n

/-- The key of `BUF[p][i]` (10_state.md R45). -/
def bufKey (p : Bool) (i : Nat) : Nat :=
  (if p then 528 else 0) + i

/-- `ParagraphAddress(b, pg, q) = (b * 64 + pg) * 4 + q` (20_memory.md R81). -/
def paragraphAddress (b pg q : Nat) : Nat :=
  (b * 64 + pg) * 4 + q

/-- The key of the first byte of a flash paragraph. -/
def flashKey (b pg q : Nat) : Nat :=
  paragraphAddress b pg q * 528

/-- The bytes of a block: `PAGES_PER_BLOCK` = 64 pages of `PARAS_PER_PAGE` = 4 paragraphs of `PARA_BYTES` = 528 bytes
(00_scope.md R6). -/
def blockBytes : Nat := 64 * 4 * 528

/-- A byte of a buffer, `BUF[p][i]`. -/
def Device.bufByte (d : Device) (p : Bool) (i : Nat) : Byte :=
  Memory.read .buffers d.buf (bufKey p i)

/-- `BUF[p][i] <- v`. -/
def Device.setBufByte (d : Device) (p : Bool) (i : Nat) (v : Byte) : Device :=
  { d with buf := Memory.write .buffers d.buf (bufKey p i) v }

/-- `BUF[p][off ..] <- bytes`. -/
def Device.setBufBytes (d : Device) (p : Bool) (off : Nat) (bytes : List Byte) : Device :=
  { d with buf := Memory.writeBytes .buffers d.buf (bufKey p off) bytes }

/-- The 528 bytes of a flash paragraph. -/
def Device.flashPara (d : Device) (b pg q : Nat) : List Byte :=
  Memory.readBytes .flash d.flash (flashKey b pg q) 528

/-- Gives `n` flash bytes from `base` up the bytes of `content`, and 0xFF beyond its length. -/
def Device.setFlash (d : Device) (base n : Nat) (content : List Byte) : Device :=
  { d with flash := Memory.writeBytes .flash (Memory.clearBytes d.flash base n) base (content.take n) }

/-- The status of a block (20_memory.md R96). -/
def Device.blockStatus (d : Device) (b : Nat) : BlockStatus :=
  Sparse.read unlistedStatus d.usage b

/-- Sets the status of a block (20_memory.md R96). -/
def Device.setBlockStatus (d : Device) (b : Nat) (st : BlockStatus) : Device :=
  { d with usage := Sparse.write unlistedStatus d.usage b st }

/-- `FlagIsSet(f)` (20_memory.md R96). -/
def Flags.get (fs : Flags) : Flag → Bool
  | .headerWritten => fs.headerWritten
  | .randomDataStarted => fs.randomDataStarted
  | .randomDataFinished => fs.randomDataFinished

/-- `SetFlag(f)` (20_memory.md R96). -/
def Flags.set (fs : Flags) : Flag → Flags
  | .headerWritten => { fs with headerWritten := true }
  | .randomDataStarted => { fs with randomDataStarted := true }
  | .randomDataFinished => { fs with randomDataFinished := true }

end Sys2Proof.Machine
end

