-- ==== Sys2Proof/Machine/Flags.lean ====
section
/-! DEFINITION. The phase, the STATUS and ERR bits and the other register views (10_state.md R31 to R41, 44_register_access.md
R313 to R317). The block has no arithmetic condition codes (10_state.md R57). -/

namespace Sys2Proof.Machine

/-- The sequencer phase (10_state.md R31). -/
inductive Phase where
  | idle
  | negotiating
  | replicating
  | checksumming
  | slaveFrame
deriving DecidableEq, Repr

/-- The phase of a continuation point (10_state.md R31, log entry 16). -/
def SeqPoint.phase : SeqPoint → Phase
  | .idle => .idle
  | .negotiating _ => .negotiating
  | .replicating _ _ => .replicating
  | .checksumming _ => .checksumming
  | .slaveFrame _ => .slaveFrame

/-- `STATUS.BUSY = 1` exactly when `phase != Idle` (10_state.md R32). -/
def Device.busy (d : Device) : Bool :=
  decide (d.seq.phase ≠ .idle)

/-- The bit number of an `ERR` bit (10_state.md R38). -/
def ErrBit.index : ErrBit → Nat
  | .illegalCmd => 0
  | .busy => 1
  | .badArg => 2
  | .role => 3
  | .rngBusy => 4
  | .swapBusy => 5
  | .bufBusy => 6
  | .access => 7
  | .protocol => 8
  | .rxOverflow => 9

/-- An `ERR` bit as a mask. -/
def ErrBit.mask (e : ErrBit) : BitVec 10 := 1#10 <<< e.index

/-- The value of an `ERR` bit (10_state.md R38). -/
def Device.errBit (d : Device) (e : ErrBit) : Bool := d.err.getLsbD e.index

/-- `STATUS.CONN` (10_state.md R47). -/
def Conn.code : Conn → BitVec 3
  | .indeterminate => 0
  | .single => 1
  | .twinnedMaster => 2
  | .twinnedSlave => 3
  | .collision => 4

/-- `STATUS.REPL` (10_state.md R48). -/
def Repl.code : Repl → BitVec 3
  | .idle => 0
  | .running => 1
  | .finished => 2
  | .aborted => 3
  | .skipped => 4

/-- `STATUS.ECC_RES` (10_state.md R49). -/
def EccRes.code : EccRes → BitVec 3
  | .none => 0
  | .noError => 1
  | .codeError => 2
  | .corrected => 3
  | .uncorrectable => 4

/-- `StatusWord()` (44_register_access.md R313). -/
def Device.statusWord (d : Device) : Word :=
  d.curBlock ++ BitVec.ofBool d.usbHost ++ BitVec.ofBool d.chkOk ++ d.eccRes.code ++ d.repl.code ++ d.conn.code ++
    BitVec.ofBool d.sel ++ BitVec.ofBool d.streamActive ++ BitVec.ofBool d.rngDone ++ BitVec.ofBool d.rngArmed ++
    BitVec.ofBool d.busy

/-- `NEG_INFO` (10_state.md R40, 44_register_access.md R317). -/
def Device.negInfo (d : Device) : Word :=
  (0 : BitVec 16) ++ BitVec.ofNat 8 d.negRounds ++ BitVec.ofNat 8 d.negD

/-- `ACC[k]`; there are eight words (10_state.md R42). -/
def Device.accWord (d : Device) (k : Nat) : Half := d.acc.toList.getD k 0

/-- `RNG_BITSk = {ACC[2k+1], ACC[2k]}` (10_state.md R41). -/
def Device.rngBits (d : Device) (k : Nat) : Word :=
  d.accWord (2 * k + 1) ++ d.accWord (2 * k)

end Sys2Proof.Machine
end

