-- ==== Sys2Proof/Machine/Operands.lean ====
section
/-! DEFINITION. What the operands of a command name, and their ranges (30_encoding.md R122, R126). -/

namespace Sys2Proof.Machine

/-- The physical buffer of a role: `BUF[SEL]` for nand, `BUF[1-SEL]` for rng (40_ecc.md R164). -/
def Device.bufOfRole (d : Device) : Role → Bool
  | .nand => d.sel
  | .rng => !d.sel

/-- `InRange` of RNG_BITS_START (30_encoding.md R126): `OFF + LEN <= 528`. -/
def streamInRange (off len : BitVec 10) : Bool :=
  decide (off.toNat + len.toNat ≤ 528)

/-- `ValidBlock(b)`: `1 <= b <= BLOCK_COUNT - 1` (43_twin_replication.md R278); the range of BLOCK_CHECKSUM
(30_encoding.md R126). -/
def Device.validBlock (d : Device) (b : Nat) : Bool :=
  decide (1 ≤ b) && decide (b < d.params.blockCount)

/-- `ValidAddr(b, pg, q)` (43_twin_replication.md R278). -/
def Device.validAddr (d : Device) (b pg q : Nat) : Bool :=
  d.validBlock b && decide (pg ≤ 63) && decide (q ≤ 3)

/-- `InRange(op, w)` of the decoded command (30_encoding.md R126). -/
def Device.inRange (d : Device) : Instr → Bool
  | .nop => true
  | .eccGen _ => true
  | .eccVerify _ => true
  | .rngStart => true
  | .rngBitsStart off len => streamInRange off len
  | .bufSwap => true
  | .twinNegotiate _ => true
  | .twinReplicate => true
  | .blockChecksum b => d.validBlock b.toNat

end Sys2Proof.Machine
end

