-- ==== Sys2Proof/Machine/Ops.lean ====
section
/-! DEFINITION. The operations the meanings share: raising an error, issuing a command, starting the sampler, swapping,
sending, and issuing requests. -/

namespace Sys2Proof.Machine

/-- The state with another `dev`. -/
def State.withDev (s : State) (d : Device) : State :=
  { s with dev := d }

/-- `raise ERR_X` (60_exceptions.md R340): `ERR.X <- 1` and nothing else. The block has no trap: this is all that
taking an error is. -/
def Device.raise (d : Device) (e : ErrBit) : Device :=
  { d with err := d.err ||| e.mask }

/-- A write of `v` to ERR: `ERR <- ERR & ~v[9:0]` (44_register_access.md R316), the only way back from an error. -/
def Device.clearErr (d : Device) (v : Word) : Device :=
  { d with err := d.err &&& ~~~(v.setWidth 10) }

/-- The checks of a decoded command other than NOP, in the order of 60_exceptions.md R344: BUSY, BAD_ARG, the command's
own check, then its effect. -/
def Device.issue (d : Device) (inRange : Bool) (own : Option ErrBit) (effect : Device) : Device :=
  if d.busy then d.raise .busy
  else if inRange then
    match own with
    | some e => d.raise e
    | none => effect
  else d.raise .badArg

/-- A CMD write that decodes to no command (30_encoding.md R124 to R127): an unassigned `OP` is ILLEGAL_CMD; a
reserved bit is BAD_ARG, after BUSY for every command but NOP. -/
def Device.rejectCommand (d : Device) : Reject → Device
  | .illegalOpcode _ => d.raise .illegalCmd
  | .reservedBits op => if op ≠ 0 ∧ d.busy = true then d.raise .busy else d.raise .badArg

/-- `raise ERR_X` only while a stream is active (41_rng.md R195, R200; 42_twin_negotiation.md R231). -/
def Device.whileStreaming (d : Device) (e : ErrBit) : Option ErrBit :=
  if d.streamActive then some e else none

/-- `StartCycle()` (41_rng.md R194, R202). -/
def Device.startCycle (d : Device) : Device :=
  { d with scount := 0, rngDone := false, rngArmed := true }

/-- `StartStream(off, len)` for `len > 0` (41_rng.md R196, R202). -/
def Device.startStream (d : Device) (off len : Nat) : Device :=
  { d with soff := off, srem := len, streamActive := true, scount := 0, rngDone := false, rngArmed := true }

/-- `Swap()`: `SEL <- 1 - SEL` (41_rng.md R199, R202). -/
def Device.swapBuffers (d : Device) : Device :=
  { d with sel := !d.sel }

/-- `Send(x)` for each byte of a list (00_scope.md R14). -/
def Device.send (d : Device) (xs : List Byte) : Device :=
  { d with txq := d.txq ++ xs.map TxEntry.lit }

/-- `SendRef(p, i)` for `i` in 0..n-1 (00_scope.md R14). -/
def Device.sendRefs (d : Device) (p : Bool) (n : Nat) : Device :=
  { d with txq := d.txq ++ (List.range n).map (TxEntry.ref p) }

/-- Issues a flash request (20_memory.md R92). -/
def Device.requestFlash (d : Device) (r : FlashRequest) : Device :=
  { d with flashReq := some r, flashResult := none }

/-- Issues a bookkeeping request (20_memory.md R96). -/
def Device.requestBook (d : Device) (r : BookRequest) : Device :=
  { d with bookReq := some r, bookResult := none }

/-- The sequencer reads a flash answer. -/
def Device.takeFlash (d : Device) : Device := { d with flashResult := none }

/-- The sequencer reads a bookkeeping answer. -/
def Device.takeBook (d : Device) : Device := { d with bookResult := none }

/-- `phase <- P` with the await it goes to (10_state.md R31). -/
def Device.goto (d : Device) (p : SeqPoint) : Device := { d with seq := p }

/-- `Recv()` takes the first byte of RXQ (00_scope.md R14): the byte, and the device without it; none while the
await holds. -/
def Device.recv (d : Device) : Option (Byte × Device) :=
  match d.rxq with
  | [] => none
  | x :: rest => some (x, { d with rxq := rest })

end Sys2Proof.Machine
end

