-- ==== Sys2Proof/Machine/Frames.lean ====
section
/-! DEFINITION. The frames of the serial link (30_encoding.md R140, R141) and the spare image (20_memory.md R87). -/

namespace Sys2Proof.Machine

/-- Token `PING` (30_encoding.md R140). -/
def tokPing : Byte := 0x50
/-- Token `ACK`. -/
def tokAck : Byte := 0x41
/-- Token `BEGIN_DATA`. -/
def tokBeginData : Byte := 0x44
/-- Token `DATA_ACK`. -/
def tokDataAck : Byte := 0x64
/-- Token `REQ_CHKSM`. -/
def tokReqChksm : Byte := 0x43
/-- Token `CHKSM`. -/
def tokChksm : Byte := 0x63
/-- Token `CHKSM_BAD`. -/
def tokChksmBad : Byte := 0x78
/-- Token `MARK_BLOCK`. -/
def tokMarkBlock : Byte := 0x4D
/-- Token `MARK_ACK`. -/
def tokMarkAck : Byte := 0x6D

/-- The payload length of a token's frame (30_encoding.md R140, R141). -/
def payloadLength (token : Byte) : Nat :=
  if token = tokBeginData then 516
  else if token = tokReqChksm then 2
  else if token = tokMarkBlock then 2
  else if token = tokChksm then 4
  else 0

/-- A token and a 16-bit block index: frames REQ_CHKSM and MARK_BLOCK, and the start of BEGIN_DATA (30_encoding.md R140). -/
def blockFrame (token : Byte) (b : Nat) : List Byte :=
  token :: bytesOf16 (BitVec.ofNat 16 b)

/-- The header of BEGIN_DATA before its 512 data bytes (30_encoding.md R140). -/
def dataHeader (b pg q : Nat) : List Byte :=
  blockFrame tokBeginData b ++ [BitVec.ofNat 8 pg, BitVec.ofNat 8 q]

/-- The frame CHKSM (30_encoding.md R140). -/
def chksmFrame (sum : Word) : List Byte :=
  tokChksm :: bytesOf32 sum

/-- `SpareImage(code)` (20_memory.md R87). -/
def spareImage (code : Word) : List Byte :=
  [0xFF, 0xFF, 0xFF, 0xFF] ++ bytesOf32 code ++ [0xFF, 0xFF, 0xFF, 0xFF, 0xFF, 0xFF, 0xFF, 0xFF]

/-- `StoredCode(buf)` of buffer `p` (20_memory.md R87). -/
def Device.storedCode (d : Device) (p : Bool) : Word :=
  ofBytes32 (d.bufByte p 516) (d.bufByte p 517) (d.bufByte p 518) (d.bufByte p 519)

/-- The 528 bytes of buffer `p`. -/
def Device.bufPara (d : Device) (p : Bool) : List Byte :=
  Memory.readBytes .buffers d.buf (bufKey p 0) 528

end Sys2Proof.Machine
end

