-- ==== Sys2Proof/Machine/Ecc.lean ====
section
/-! DEFINITION. The SEC-DED code over 512 bytes and the commands ECC_GEN and ECC_VERIFY (40_ecc.md R160 to R168). -/

namespace Sys2Proof.Machine

/-- The accumulators of `Raw` (40_ecc.md R160). -/
structure ParityAcc where
  lp : BitVec 9
  lpn : BitVec 9
  c : Byte
deriving DecidableEq, Repr

/-- One byte of the loop of `Raw`: index `i`, byte `x` (40_ecc.md R160). -/
def parityStep (a : ParityAcc) (i : Nat) (x : Byte) : ParityAcc :=
  if parity x then
    { lp := a.lp ^^^ BitVec.ofNat 9 i, lpn := a.lpn ^^^ ~~~(BitVec.ofNat 9 i), c := a.c ^^^ x }
  else { a with c := a.c ^^^ x }

/-- The accumulators after bytes `0 .. n-1` (40_ecc.md R160). -/
def parityAcc (d : Nat → Byte) : Nat → ParityAcc
  | 0 => { lp := 0, lpn := 0, c := 0 }
  | n + 1 => parityStep (parityAcc d n) n (d n)

/-- The 25-bit word of the accumulators: bit 24 is EXT, bits [23:18] are CP[5:0], bits [17:9] LPN, bits [8:0] LP
(40_ecc.md R160). -/
def ParityAcc.word (a : ParityAcc) : BitVec 25 :=
  BitVec.ofBool (parity a.c) ++
    BitVec.ofBool (parity (a.c &&& 0xF0)) ++ BitVec.ofBool (parity (a.c &&& 0x0F)) ++
    BitVec.ofBool (parity (a.c &&& 0xCC)) ++ BitVec.ofBool (parity (a.c &&& 0x33)) ++
    BitVec.ofBool (parity (a.c &&& 0xAA)) ++ BitVec.ofBool (parity (a.c &&& 0x55)) ++
    a.lpn ++ a.lp

/-- `Raw(d)` (40_ecc.md R160). -/
def eccRaw (d : Nat → Byte) : BitVec 25 :=
  (parityAcc d 512).word

/-- `Gen(d) = zext_32((~Raw(d))[24:0])` (40_ecc.md R160, R161). -/
def eccGen (d : Nat → Byte) : Word :=
  (~~~(eccRaw d)).setWidth 32

/-- `Syn(d, code) = (Gen(d) ^ code)[24:0]` (40_ecc.md R162). -/
def eccSyndrome (d : Nat → Byte) (code : Word) : BitVec 25 :=
  (eccGen d ^^^ code).setWidth 25

/-- `W = popcount(Syn[23:0])` (40_ecc.md R162). -/
def synWeight (syn : BitVec 25) : Nat :=
  popcount (syn.extractLsb' 0 24)

/-- `E = Syn[24]` (40_ecc.md R162). -/
def synExt (syn : BitVec 25) : Bool :=
  syn.getLsbD 24

/-- `k = syn[8:0]`, the byte a correction flips a bit of (40_ecc.md R163). -/
def synByte (syn : BitVec 25) : Nat :=
  (syn.extractLsb' 0 9).toNat

/-- `j = {syn[23], syn[21], syn[19]}`, the bit a correction flips (40_ecc.md R163). -/
def synBit (syn : BitVec 25) : Nat :=
  (BitVec.ofBool (syn.getLsbD 23) ++ BitVec.ofBool (syn.getLsbD 21) ++ BitVec.ofBool (syn.getLsbD 19)).toNat

/-- The dispatch of `Verify` on a syndrome, in the order of 40_ecc.md R163. -/
def eccDispatch (syn : BitVec 25) : EccRes :=
  if syn = 0 then .noError
  else if synWeight syn + (synExt syn).toNat = 1 then .codeError
  else if synWeight syn = 12 ∧ synExt syn = true then .corrected
  else .uncorrectable

/-- `d` with bit `j` of byte `k` inverted. -/
def flipBit (d : Nat → Byte) (k j : Nat) : Nat → Byte :=
  fun i => if i = k then d i ^^^ (1#8 <<< j) else d i

/-- The result of `Verify(d, code)`: the outcome, the syndrome and the data after correction (40_ecc.md R163). -/
structure VerifyResult where
  res : EccRes
  syn : BitVec 25
  data : Nat → Byte

/-- `Verify(d, code)` (40_ecc.md R163). -/
def eccVerify (d : Nat → Byte) (code : Word) : VerifyResult :=
  let syn := eccSyndrome d code
  { res := eccDispatch syn
    syn := syn
    data := if eccDispatch syn = .corrected then flipBit d (synByte syn) (synBit syn) else d }

/-- The data part `X[0..511]` of buffer `p` as a sequence (40_ecc.md R164). -/
def Device.bufData (d : Device) (p : Bool) : Nat → Byte :=
  fun i => d.bufByte p i

/-- Writes into buffer `p` the one byte a correction by syndrome `syn` changes, if the dispatch corrects
(40_ecc.md R166, R169). -/
def Device.correctBuf (d : Device) (p : Bool) (syn : BitVec 25) : Device :=
  if eccDispatch syn = .corrected then
    d.setBufByte p (synByte syn) (d.bufByte p (synByte syn) ^^^ (1#8 <<< synBit syn))
  else d

/-- The own check of the ECC commands: the rng buffer while a stream is active (40_ecc.md R164). -/
def Device.eccOwnError (d : Device) : Role → Option ErrBit
  | .nand => none
  | .rng => d.whileStreaming .bufBusy

/-- The effect of ECC_GEN (40_ecc.md R165). -/
def Device.eccGenEffect (d : Device) (r : Role) : Device :=
  { d with eccCode := eccGen (d.bufData (d.bufOfRole r)) }

/-- The effect of ECC_VERIFY (40_ecc.md R166). -/
def Device.eccVerifyEffect (d : Device) (r : Role) : Device :=
  let v := eccVerify (d.bufData (d.bufOfRole r)) d.eccCode
  { d.correctBuf (d.bufOfRole r) v.syn with eccSyn := v.syn, eccRes := v.res }

/-- `ECC_GEN` (40_ecc.md R165). -/
def execEccGen (r : Role) (s : State) : Host.Outcome State Fault Refusal :=
  .next (s.withDev (s.dev.issue (s.dev.inRange (.eccGen r)) (s.dev.eccOwnError r) (s.dev.eccGenEffect r)))

/-- `ECC_VERIFY` (40_ecc.md R166). -/
def execEccVerify (r : Role) (s : State) : Host.Outcome State Fault Refusal :=
  .next (s.withDev (s.dev.issue (s.dev.inRange (.eccVerify r)) (s.dev.eccOwnError r) (s.dev.eccVerifyEffect r)))

/-- `NAND[512 .. 527] <- SpareImage(Gen(NAND[0 .. 511]))` (43_twin_replication.md R265, R266, R279). -/
def Device.writeSpare (d : Device) : Device :=
  d.setBufBytes d.sel 512 (spareImage (eccGen (d.bufData d.sel)))

end Sys2Proof.Machine
end

