-- ==== Sys2Proof/Machine/Checksum.lean ====
section
/-! DEFINITION. The block checksum and the command BLOCK_CHECKSUM (43_twin_replication.md R270 to R272). -/

namespace Sys2Proof.Machine

/-- The paragraph after `(pg, q)` in a block, or none after the last (43_twin_replication.md R270, R273). -/
def nextPara (pg q : Nat) : Option (Nat × Nat) :=
  if q < 3 then some (pg, q + 1)
  else if pg < 63 then some (pg + 1, 0)
  else none

/-- `Checksum(b)` up to its first await (43_twin_replication.md R270). -/
def checksumStart (b : Nat) : ChecksumLoop := ⟨b, 0, 0, 0⟩

/-- The flash request a checksum awaits. -/
def ChecksumLoop.request (c : ChecksumLoop) : FlashRequest := .read c.b c.pg c.q

/-- The sum of the 512 data bytes of buffer `p` added to `sum`, mod 2^32 (43_twin_replication.md R270). -/
def Device.addData (d : Device) (p : Bool) (sum : Word) : Word :=
  (List.range 512).foldl (fun acc i => acc + (d.bufByte p i).setWidth 32) sum

/-- What one turn of the checksum loop leads to. -/
inductive ChecksumNext where
  /-- The next paragraph's read. -/
  | more (c : ChecksumLoop)
  /-- `return (ok, sum)`. -/
  | finished (ok : Bool) (sum : Word)
deriving DecidableEq, Repr

/-- One turn of the loop of `Checksum` on the answer of its flash read (43_twin_replication.md R270): the device
with the nand buffer overwritten and corrected, and what comes next. -/
def Device.checksumTurn (d : Device) (c : ChecksumLoop) (r : FlashResult) : Device × ChecksumNext :=
  if r.ok then
    let d1 := d.setBufBytes d.sel 0 (r.bytes.take 528)
    let syn := eccSyndrome (d1.bufData d1.sel) (d1.storedCode d1.sel)
    if eccDispatch syn = .uncorrectable then (d1, .finished false c.sum)
    else
      let d2 := d1.correctBuf d1.sel syn
      let sum := d2.addData d2.sel c.sum
      match nextPara c.pg c.q with
      | some (pg, q) => (d2, .more ⟨c.b, pg, q, sum⟩)
      | none => (d2, .finished true sum)
  else (d, .finished false c.sum)

/-- The effect of BLOCK_CHECKSUM up to its first await (43_twin_replication.md R272). -/
def Device.blockChecksumEffect (d : Device) (b : Half) : Device :=
  (({ d with curBlock := b }).requestFlash (checksumStart b.toNat).request).goto (.checksumming (checksumStart b.toNat))

/-- The SEQ step of phase Checksumming (43_twin_replication.md R272). -/
def Device.checksumStep (d : Device) (c : ChecksumLoop) : Device :=
  match d.flashResult with
  | none => d
  | some r =>
    match d.takeFlash.checksumTurn c r with
    | (d1, .more c1) => (d1.requestFlash c1.request).goto (.checksumming c1)
    | (d1, .finished ok sum) => { d1 with chksum := sum, chkOk := ok, seq := .idle }

/-- `BLOCK_CHECKSUM` (43_twin_replication.md R272). -/
def execBlockChecksum (b : Half) (s : State) : Host.Outcome State Fault Refusal :=
  .next (s.withDev (s.dev.issue (s.dev.inRange (.blockChecksum b)) none (s.dev.blockChecksumEffect b)))

end Sys2Proof.Machine
end

