-- ==== Sys2Proof/Machine/Rng.lean ====
section
/-! DEFINITION. The RNG unit and the double buffer: the ADC step and the commands RNG_START, RNG_BITS_START and BUF_SWAP
(41_rng.md R190 to R203). -/

namespace Sys2Proof.Machine

/-- `Ser(ACC)`: sixteen bytes, little-endian (41_rng.md R192). -/
def accBytes (d : Device) : List Byte :=
  (List.range 8).flatMap (fun k => bytesOf16 (d.accWord k))

/-- `ACC[k] <- v`. -/
def Device.setAcc (d : Device) (k : Nat) (v : Half) : Device :=
  { d with acc := d.acc.setIfInBounds k v }

/-- `CycleEnd()` (41_rng.md R191). -/
def Device.cycleEnd (d : Device) : Device :=
  if d.streamActive then
    let n := min 16 d.srem
    let d1 := { d.setBufBytes (!d.sel) d.soff ((accBytes d).take n) with
                scount := 0, soff := d.soff + n, srem := d.srem - n }
    if 0 < d.srem - n then d1
    else { d1 with streamActive := false, rngArmed := false, rngDone := true }
  else { d with scount := 0, rngArmed := false, rngDone := true }

/-- The ADC step with sample `s` (41_rng.md R190). -/
def Device.adcStep (d : Device) (s : Half) : Device :=
  if d.rngArmed then
    let k := d.scount % 8
    let d1 := { d.setAcc k (rotl16 (d.accWord k) 1 ^^^ s) with scount := d.scount + 1 }
    if d.scount + 1 = d.params.nSamples then d1.cycleEnd else d1
  else d

/-- The effect of RNG_BITS_START (41_rng.md R196, R198): nothing for `LEN = 0`. -/
def Device.bitsStartEffect (d : Device) (off len : BitVec 10) : Device :=
  if len = 0 then d else d.startStream off.toNat len.toNat

/-- `RNG_START` (41_rng.md R194). -/
def execRngStart (s : State) : Host.Outcome State Fault Refusal :=
  .next (s.withDev (s.dev.issue (s.dev.inRange .rngStart) (s.dev.whileStreaming .rngBusy) s.dev.startCycle))

/-- `RNG_BITS_START` (41_rng.md R196). -/
def execRngBitsStart (off len : BitVec 10) (s : State) : Host.Outcome State Fault Refusal :=
  .next (s.withDev (s.dev.issue (s.dev.inRange (.rngBitsStart off len)) (s.dev.whileStreaming .rngBusy)
    (s.dev.bitsStartEffect off len)))

/-- `BUF_SWAP` (41_rng.md R199). -/
def execBufSwap (s : State) : Host.Outcome State Fault Refusal :=
  .next (s.withDev (s.dev.issue (s.dev.inRange .bufSwap) (s.dev.whileStreaming .swapBusy) s.dev.swapBuffers))

end Sys2Proof.Machine
end

