-- ==== Sys2Proof/Machine/Negotiation.lean ====
section
/-! DEFINITION. The leader election: the command TWIN_NEGOTIATE and the sequencer's steps in phase Negotiating
(42_twin_negotiation.md R230 to R245). -/

namespace Sys2Proof.Machine

/-- Step 1 of a round, up to its await (42_twin_negotiation.md R232). -/
def Device.roundStart (d : Device) : Device :=
  { d with negT := 0, seq := .negotiating .settle }

/-- The end of step 2 and the start of step 3, with backoff `n` (42_twin_negotiation.md R233, R234). -/
def Device.listenStart (d : Device) (n : Nat) : Device :=
  { d with negD := n, negT := 0, seq := .negotiating .listen }

/-- The drawn backoff (42_twin_negotiation.md R233). -/
def Device.drawnBackoff (d : Device) : Nat :=
  Config.backoffMin + (d.accWord 0).toNat % (Config.backoffMax - Config.backoffMin + 1)

/-- Step 2 up to its await (42_twin_negotiation.md R233). -/
def Device.backoffStart (d : Device) : Device :=
  if d.negForce || (d.negPrio && d.usbHost) then d.listenStart 0
  else d.startCycle.goto (.negotiating .sample)

/-- The election ends in `r` (42_twin_negotiation.md R230, R237). -/
def Device.negotiated (d : Device) (r : Conn) : Device :=
  { d with conn := r, seq := .idle }

/-- A round ended in collision: the next round starts (42_twin_negotiation.md R230, R239). -/
def Device.collided (d : Device) : Device :=
  ({ d with conn := .collision, negRounds := min 255 (d.negRounds + 1), negForce := false, negPrio := false }).roundStart

/-- The SEQ step of phase Negotiating: from one await to the next, or nothing while the await holds
(42_twin_negotiation.md R232 to R239). -/
def Device.negotiateStep (d : Device) : NegPoint → Device
  | .settle => if Config.settleMs ≤ d.negT then d.backoffStart else d
  | .sample => if d.rngDone then d.listenStart d.drawnBackoff else d
  | .listen =>
    match d.recv with
    | some (x, d1) => if x = tokPing then (d1.send [tokAck]).negotiated .twinnedSlave else d1
    | none => if d.negD ≤ d.negT then (d.send [tokPing]).goto (.negotiating .window) else d
  | .window =>
    match d.recv with
    | some (x, d1) =>
      if x = tokAck then d1.negotiated .twinnedMaster
      else if x = tokPing then d1.collided
      else d1
    | none => if Config.windowMs ≤ d.negT then d.negotiated .single else d

/-- The effect of TWIN_NEGOTIATE up to its first await (42_twin_negotiation.md R230). -/
def Device.negotiateEffect (d : Device) (force : Bool) : Device :=
  ({ d with conn := .indeterminate, negForce := force, negPrio := true, negRounds := 0 }).roundStart

/-- The TIMER step (42_twin_negotiation.md R240). -/
def Device.timerStep (d : Device) : Device :=
  if d.seq.phase = .negotiating then { d with negT := min Config.windowMs (d.negT + 1) } else d

/-- `TWIN_NEGOTIATE` (42_twin_negotiation.md R230). -/
def execTwinNegotiate (force : Bool) (s : State) : Host.Outcome State Fault Refusal :=
  .next (s.withDev (s.dev.issue (s.dev.inRange (.twinNegotiate force)) (s.dev.whileStreaming .rngBusy)
    (s.dev.negotiateEffect force)))

end Sys2Proof.Machine
end

