-- ==== Sys2Proof/Machine/Replication.lean ====
section
/-! DEFINITION. The replication run: the command TWIN_REPLICATE and the sequencer's steps in phase Replicating
(43_twin_replication.md R260 to R269). `tw` is the run's local `twinned`. -/

namespace Sys2Proof.Machine

/-- Goes to an await of the run. -/
def Device.runTo (d : Device) (tw : Bool) (p : RunPoint) : Device := d.goto (.replicating tw p)

/-- Issues a flash request and goes to its await. -/
def Device.runFlash (d : Device) (tw : Bool) (r : FlashRequest) (p : RunPoint) : Device :=
  (d.requestFlash r).runTo tw p

/-- Issues a bookkeeping request and goes to its await. -/
def Device.runBook (d : Device) (tw : Bool) (r : BookRequest) (p : RunPoint) : Device :=
  (d.requestBook r).runTo tw p

/-- `Abort()` (43_twin_replication.md R268). -/
def Device.abortRun (d : Device) : Device :=
  { d.raise .protocol with repl := .aborted, seq := .idle }

/-- The run ends with `REPL <- r` (43_twin_replication.md R262, R269). -/
def Device.endRun (d : Device) (r : Repl) : Device :=
  { d with repl := r, seq := .idle }

/-- The head of the block loop for block `b`, or `Finish()` after the last one (43_twin_replication.md R260, R263, R269). -/
def Device.enterBlock (d : Device) (tw : Bool) (b : Nat) : Device :=
  if b < d.params.blockCount then
    ({ d with curBlock := BitVec.ofNat 16 b }).runBook tw (.blockStatus b) (.status b)
  else d.runBook tw (.setFlag .randomDataFinished) .finishing

/-- `REPL <- Running` and the await of `Start()` (43_twin_replication.md R262). -/
def Device.runStarted (d : Device) (tw : Bool) : Device :=
  ({ d with repl := .running }).runTo tw .firstStream

/-- `Send(0x4D); Send16(b)` and the await of MARK_ACK (43_twin_replication.md R263, R267). -/
def Device.sendMark (d : Device) (tw : Bool) (b : Nat) (p : RunPoint) : Device :=
  (d.send (blockFrame tokMarkBlock b)).runTo tw p

/-- The audit's decision (43_twin_replication.md R267): `ownSum` and `remote` are the two sums, none where not ok. -/
def Device.auditJudge (d : Device) (tw : Bool) (b : Nat) (ownSum remote : Option Word) : Device :=
  if ownSum.isSome && remote.isSome && decide (ownSum = remote) then d.enterBlock tw (b + 1)
  else d.runBook tw (.markBad b) (.auditMark b)

/-- The master reads back its own block, unless it is already bad (43_twin_replication.md R267). -/
def Device.auditLocal (d : Device) (tw : Bool) (b : Nat) (bad : Bool) (remote : Option Word) : Device :=
  if bad then d.auditJudge tw b none remote
  else d.runFlash tw (checksumStart b).request (.auditRead remote (checksumStart b))

/-- `Audit(b, bad)` up to its first await (43_twin_replication.md R267). -/
def Device.auditStart (d : Device) (tw : Bool) (b : Nat) (bad : Bool) : Device :=
  if tw then (d.send (blockFrame tokReqChksm b)).runTo tw (.auditReply b bad)
  else if bad then d.runBook tw (.markBad b) (.localMark b)
  else d.enterBlock tw (b + 1)

/-- After paragraph `(pg, q)`: the next paragraph's await, or the audit (43_twin_replication.md R260). -/
def Device.afterPara (d : Device) (tw : Bool) (b pg q : Nat) (bad : Bool) : Device :=
  match nextPara pg q with
  | some (pg1, q1) => d.runTo tw (.fill b pg1 q1 bad)
  | none => d.auditStart tw b bad

/-- The end of `Paragraph`: await DATA_ACK when twinned (43_twin_replication.md R265). -/
def Device.afterProgram (d : Device) (tw : Bool) (b pg q : Nat) (bad : Bool) : Device :=
  if tw then d.runTo tw (.dataAck b pg q bad) else d.afterPara tw b pg q bad

/-- The BEGIN_DATA frame of a twinned run, its data by reference (43_twin_replication.md R265). -/
def Device.sendPara (d : Device) (tw : Bool) (b pg q : Nat) : Device :=
  if tw then (d.send (dataHeader b pg q)).sendRefs d.sel 512 else d

/-- `Paragraph` from its first await to the next: swap, restart the stream, write the spare, send, program
(43_twin_replication.md R265). -/
def Device.paraReady (d : Device) (tw : Bool) (b pg q : Nat) (bad : Bool) : Device :=
  let d1 := ((d.swapBuffers.startStream 0 512).writeSpare).sendPara tw b pg q
  if bad then d1.afterProgram tw b pg q bad
  else d1.runFlash tw (.program b pg q (d1.bufPara d1.sel)) (.programming b pg q)

/-- `Expect(t)` (43_twin_replication.md R268): nothing while no byte waits; `k` on `t`; else Abort. -/
def Device.expect (d : Device) (t : Byte) (k : Device → Device) : Device :=
  match d.recv with
  | none => d
  | some (x, d1) => if x = t then k d1 else d1.abortRun

/-- The master's turn of its own checksum in the audit (43_twin_replication.md R267, R270). -/
def Device.auditTurn (d : Device) (tw : Bool) (remote : Option Word) (c : ChecksumLoop) (r : FlashResult) : Device :=
  match d.checksumTurn c r with
  | (d1, .more c1) => d1.runFlash tw c1.request (.auditRead remote c1)
  | (d1, .finished ok sum) => d1.auditJudge tw c.b (if ok then some sum else none) remote

/-- The reply's token in the audit (43_twin_replication.md R267). -/
def Device.auditToken (d : Device) (tw : Bool) (b : Nat) (bad : Bool) (x : Byte) : Device :=
  if x = tokChksm then d.runTo tw (.auditSum b bad [])
  else if x = tokChksmBad then d.auditLocal tw b bad none
  else d.abortRun

/-- The reply's sum bytes in the audit: `got` are those read before `x` (43_twin_replication.md R267). -/
def Device.auditSumByte (d : Device) (tw : Bool) (b : Nat) (bad : Bool) (got : List Byte) (x : Byte) : Device :=
  match got with
  | [s0, s1, s2] => d.auditLocal tw b bad (some (ofBytes32 s0 s1 s2 x))
  | _ => d.runTo tw (.auditSum b bad (got ++ [x]))

/-- The SEQ step of phase Replicating: from one await to the next, or nothing while the await holds
(43_twin_replication.md R260 to R269). -/
def Device.replicateStep (d : Device) (tw : Bool) : RunPoint → Device
  | .checkFinished =>
    match d.bookResult with
    | some (.flag true) => d.takeBook.endRun .skipped
    | some (.flag false) => d.runBook tw (.flagIsSet .randomDataStarted) .checkStarted
    | _ => d
  | .checkStarted =>
    match d.bookResult with
    | some (.flag true) => d.takeBook.runStarted tw
    | some (.flag false) => d.runBook tw (.setFlag .randomDataStarted) .setStarted
    | _ => d
  | .setStarted =>
    match d.bookResult with
    | some .done => d.takeBook.runStarted tw
    | _ => d
  | .firstStream => if d.streamActive then d else (d.startStream 0 512).enterBlock tw 1
  | .status b =>
    match d.bookResult with
    | some (.status .bad) =>
      if tw then d.takeBook.sendMark tw b (.skipAck b) else d.takeBook.enterBlock tw (b + 1)
    | some (.status _) => d.takeBook.runFlash tw (.erase b) (.erasing b)
    | _ => d
  | .skipAck b => d.expect tokMarkAck (fun d1 => d1.enterBlock tw (b + 1))
  | .erasing b =>
    match d.flashResult with
    | some r => d.takeFlash.runTo tw (.fill b 0 0 (!r.ok))
    | none => d
  | .fill b pg q bad => if d.streamActive then d else d.paraReady tw b pg q bad
  | .programming b pg q =>
    match d.flashResult with
    | some r => d.takeFlash.afterProgram tw b pg q (!r.ok)
    | none => d
  | .dataAck b pg q bad => d.expect tokDataAck (fun d1 => d1.afterPara tw b pg q bad)
  | .auditReply b bad =>
    match d.recv with
    | some (x, d1) => d1.auditToken tw b bad x
    | none => d
  | .auditSum b bad got =>
    match d.recv with
    | some (x, d1) => d1.auditSumByte tw b bad got x
    | none => d
  | .auditRead remote c =>
    match d.flashResult with
    | some r => d.takeFlash.auditTurn tw remote c r
    | none => d
  | .auditMark b =>
    match d.bookResult with
    | some .done => d.takeBook.sendMark tw b (.markAck b)
    | _ => d
  | .markAck b => d.expect tokMarkAck (fun d1 => d1.enterBlock tw (b + 1))
  | .localMark b =>
    match d.bookResult with
    | some .done => d.takeBook.enterBlock tw (b + 1)
    | _ => d
  | .finishing =>
    match d.bookResult with
    | some .done => d.takeBook.endRun .finished
    | _ => d

/-- The own check of TWIN_REPLICATE (43_twin_replication.md R261). -/
def Device.roleError (d : Device) : Option ErrBit :=
  if d.conn = .single ∨ d.conn = .twinnedMaster then none else some .role

/-- The effect of TWIN_REPLICATE up to its first await (43_twin_replication.md R260, R262). -/
def Device.replicateEffect (d : Device) : Device :=
  let tw := decide (d.conn = .twinnedMaster)
  ({ d with rxq := if tw then [] else d.rxq }).runBook tw (.flagIsSet .randomDataFinished) .checkFinished

/-- `TWIN_REPLICATE` (43_twin_replication.md R260). -/
def execTwinReplicate (s : State) : Host.Outcome State Fault Refusal :=
  .next (s.withDev (s.dev.issue (s.dev.inRange .twinReplicate) s.dev.roleError s.dev.replicateEffect))

end Sys2Proof.Machine
end

