-- ==== Sys2Proof/Machine/System.lean ====
section
/-! DEFINITION. The command NOP (44_register_access.md R320). -/

namespace Sys2Proof.Machine

/-- `NOP` (44_register_access.md R320): no state changes, and never refused for BUSY. -/
def execNop (s : State) : Host.Outcome State Fault Refusal :=
  .next s

end Sys2Proof.Machine
end

