-- ==== Sys2Proof/Machine/Dispatch.lean ====
section
/-! DEFINITION. The meaning of each command, after the word decoded: one arm per row of spec/opcode_table.json. -/

namespace Sys2Proof.Machine

def exec (i : Instr) (s : State) : Host.Outcome State Fault Refusal :=
  match i with
  | .nop => Sys2Proof.Machine.execNop s
  | .eccGen r => Sys2Proof.Machine.execEccGen r s
  | .eccVerify r => Sys2Proof.Machine.execEccVerify r s
  | .rngStart => Sys2Proof.Machine.execRngStart s
  | .rngBitsStart off len => Sys2Proof.Machine.execRngBitsStart off len s
  | .bufSwap => Sys2Proof.Machine.execBufSwap s
  | .twinNegotiate force => Sys2Proof.Machine.execTwinNegotiate force s
  | .twinReplicate => Sys2Proof.Machine.execTwinReplicate s
  | .blockChecksum b => Sys2Proof.Machine.execBlockChecksum b s

end Sys2Proof.Machine
end

