-- ==== Sys2Proof/Machine/Mmio.lean ====
section
/-! DEFINITION. Every HOST access: the MMIO map, legality, reads, writes, and the issue of a command (30_encoding.md R120,
R124; 44_register_access.md R310 to R322). -/

namespace Sys2Proof.Machine

/-- A row of the MMIO map (30_encoding.md R120). -/
inductive Target where
  | cmd
  | status
  | eccCode
  | eccSyn
  | err
  | chksum
  | negInfo
  | rngBits (k : Nat)
  | nandWindow (i : Nat)
  | rngWindow (i : Nat)
  | reserved
deriving DecidableEq, Repr

/-- The row of the MMIO map that offset `n` is in (30_encoding.md R120). -/
def targetAt (n : Nat) : Target :=
  if n = 0x000 then .cmd
  else if n = 0x004 then .status
  else if n = 0x008 then .eccCode
  else if n = 0x00C then .eccSyn
  else if n = 0x010 then .err
  else if n = 0x014 then .chksum
  else if n = 0x018 then .negInfo
  else if n = 0x020 then .rngBits 0
  else if n = 0x024 then .rngBits 1
  else if n = 0x028 then .rngBits 2
  else if n = 0x02C then .rngBits 3
  else if 0x400 ≤ n ∧ n ≤ 0x60F then .nandWindow (n - 0x400)
  else if 0x800 ≤ n ∧ n ≤ 0xA0F then .rngWindow (n - 0x800)
  else .reserved

/-- The row an offset is in (30_encoding.md R120). -/
def targetOf (a : Offset) : Target := targetAt a.toNat

/-- `Legal(a, n, read)` (44_register_access.md R311). -/
def legalRead (t : Target) (n : Width) : Bool :=
  match t with
  | .cmd => false
  | .status => n == .word
  | .eccCode => n == .word
  | .eccSyn => n == .word
  | .err => n == .word
  | .chksum => n == .word
  | .negInfo => n == .word
  | .rngBits _ => n == .word
  | .nandWindow _ => n == .byte
  | .rngWindow _ => n == .byte
  | .reserved => false

/-- `Legal(a, n, write)` (44_register_access.md R311). -/
def legalWrite (t : Target) (n : Width) : Bool :=
  match t with
  | .cmd => n == .word
  | .status => false
  | .eccCode => n == .word
  | .eccSyn => false
  | .err => n == .word
  | .chksum => false
  | .negInfo => false
  | .rngBits _ => false
  | .nandWindow _ => n == .byte
  | .rngWindow _ => n == .byte
  | .reserved => false

/-- The read table (44_register_access.md R321); a window byte is zero-extended (log entry 9). -/
def Device.readTarget (d : Device) : Target → Word
  | .cmd => 0
  | .status => d.statusWord
  | .eccCode => d.eccCode
  | .eccSyn => d.eccSyn.setWidth 32
  | .err => d.err.setWidth 32
  | .chksum => d.chksum
  | .negInfo => d.negInfo
  | .rngBits k => d.rngBits k
  | .nandWindow i => (d.bufByte d.sel i).setWidth 32
  | .rngWindow i => (d.bufByte (!d.sel) i).setWidth 32
  | .reserved => 0

/-- `MemRead(a, n)` (44_register_access.md R310, R311, R321). -/
def Device.mmioRead (d : Device) (a : Offset) (n : Width) : Device :=
  if legalRead (targetOf a) n then { d with readData := d.readTarget (targetOf a) }
  else { d.raise .access with readData := 0 }

/-- A write to the NAND window (44_register_access.md R318). -/
def Device.writeNand (d : Device) (i : Nat) (v : Byte) : Device :=
  if d.busy then d.raise .busy else d.setBufByte d.sel i v

/-- A write to the RNG window (44_register_access.md R319). -/
def Device.writeRng (d : Device) (i : Nat) (v : Byte) : Device :=
  if d.busy then d.raise .busy
  else if d.streamActive then d.raise .bufBusy
  else d.setBufByte (!d.sel) i v

/-- `MemWrite(a, 1, v)` (44_register_access.md R311, R322): only window bytes are legal. -/
def Device.mmioWrite8 (d : Device) (a : Offset) (v : Byte) : Device :=
  if legalWrite (targetOf a) .byte then
    match targetOf a with
    | .nandWindow i => d.writeNand i v
    | .rngWindow i => d.writeRng i v
    | _ => d
  else d.raise .access

/-- `MemWrite(a, 4, v)` to a register other than CMD (44_register_access.md R311, R322). -/
def Device.mmioWrite32 (d : Device) (a : Offset) (v : Word) : Device :=
  if legalWrite (targetOf a) .word then
    match targetOf a with
    | .eccCode => { d with eccCode := v }
    | .err => d.clearErr v
    | _ => d
  else d.raise .access

/-- The issue of command word `w` (30_encoding.md R124; 44_register_access.md R312): the decoded command's meaning makes
its own BUSY and range checks. -/
def issueCommand (w : Word) (s : State) : Host.Outcome State Fault Refusal :=
  match decode w with
  | .ok i => exec i s
  | .error r => .next (s.withDev (s.dev.rejectCommand r))

/-- One HOST step (44_register_access.md R310). -/
def hostStep (acc : Access) (s : State) : Host.Outcome State Fault Refusal :=
  match acc with
  | .read a n => .next (s.withDev (s.dev.mmioRead a n))
  | .write8 a v => .next (s.withDev (s.dev.mmioWrite8 a v))
  | .write32 a v =>
    if targetOf a = .cmd then issueCommand v s
    else .next (s.withDev (s.dev.mmioWrite32 a v))

end Sys2Proof.Machine
end

