-- ==== Sys2Proof/Machine/Slave.lean ====
section
/-! DEFINITION. The slave frame handler (43_twin_replication.md R277 to R284). -/

namespace Sys2Proof.Machine

/-- Goes to an await of the frame. -/
def Device.slaveTo (d : Device) (f : SlaveFrame) (p : SlavePoint) : Device :=
  d.goto (.slaveFrame { f with point := p })

/-- Issues a flash request and goes to its await. -/
def Device.slaveFlash (d : Device) (f : SlaveFrame) (r : FlashRequest) (p : SlavePoint) : Device :=
  (d.requestFlash r).slaveTo f p

/-- Issues a bookkeeping request and goes to its await. -/
def Device.slaveBook (d : Device) (f : SlaveFrame) (r : BookRequest) (p : SlavePoint) : Device :=
  (d.requestBook r).slaveTo f p

/-- The frame's block index, `Recv16()` of its first two payload bytes (30_encoding.md R140). -/
def SlaveFrame.block (f : SlaveFrame) : Nat :=
  (ofBytes16 (f.payload.getD 0 0) (f.payload.getD 1 0)).toNat

/-- The page of a BEGIN_DATA frame (30_encoding.md R140). -/
def SlaveFrame.page (f : SlaveFrame) : Nat := (f.payload.getD 2 0).toNat

/-- The paragraph of a BEGIN_DATA frame (30_encoding.md R140). -/
def SlaveFrame.para (f : SlaveFrame) : Nat := (f.payload.getD 3 0).toNat

/-- The frame is done: `phase <- Idle` (43_twin_replication.md R277). -/
def Device.slaveDone (d : Device) : Device := d.goto .idle

/-- Desync: `ERR.PROTOCOL <- 1`, no reply (43_twin_replication.md R283). -/
def Device.slaveDesync (d : Device) : Device := (d.raise .protocol).slaveDone

/-- The programming half of `BeginData()` (43_twin_replication.md R279). -/
def Device.slaveProgram (d : Device) (f : SlaveFrame) : Device :=
  let d1 := d.writeSpare
  d1.slaveFlash f (.program f.block f.page f.para (d1.bufPara d1.sel)) .programming

/-- `BeginData()` once the whole frame is read (43_twin_replication.md R279). -/
def Device.beginData (d : Device) (f : SlaveFrame) : Device :=
  if d.validAddr f.block f.page f.para then
    if f.page = 0 ∧ f.para = 0 then d.slaveBook f (.flagIsSet .randomDataStarted) .checkStarted
    else d.slaveProgram f
  else d.slaveDesync

/-- `ReqChecksum()` once the whole frame is read (43_twin_replication.md R280). -/
def Device.reqChecksum (d : Device) (f : SlaveFrame) : Device :=
  if d.validBlock f.block then
    d.slaveFlash f (checksumStart f.block).request (.checksum (checksumStart f.block))
  else d.slaveDesync

/-- `MarkBlock()` once the whole frame is read (43_twin_replication.md R281). -/
def Device.markBlock (d : Device) (f : SlaveFrame) : Device :=
  if d.validBlock f.block then d.slaveBook f (.markBad f.block) .marking
  else d.slaveDesync

/-- A frame whose payload is complete (43_twin_replication.md R277). -/
def Device.frameComplete (d : Device) (f : SlaveFrame) : Device :=
  if f.token = tokBeginData then d.beginData f
  else if f.token = tokReqChksm then d.reqChecksum f
  else d.markBlock f

/-- A data byte of BEGIN_DATA goes to the nand buffer: payload byte `n`, `n >= 4`, is `NAND[n - 4]`
(43_twin_replication.md R279). -/
def Device.storePayload (d : Device) (f : SlaveFrame) (x : Byte) : Device :=
  if f.token = tokBeginData ∧ 4 ≤ f.payload.length then d.setBufByte d.sel (f.payload.length - 4) x else d

/-- A payload byte of a frame in progress (43_twin_replication.md R279 to R281, 30_encoding.md R141). -/
def Device.payloadByte (d : Device) (f : SlaveFrame) (x : Byte) : Device :=
  let f1 : SlaveFrame := { f with payload := f.payload ++ [x] }
  let d1 := d.storePayload f x
  if payloadLength f.token ≤ f1.payload.length then d1.frameComplete f1
  else d1.slaveTo f1 .payload

/-- The first byte of a frame (43_twin_replication.md R277, R282, R283): `x` has been taken from RXQ. -/
def Device.firstByte (d : Device) (x : Byte) : Device :=
  if x = tokBeginData ∨ x = tokReqChksm ∨ x = tokMarkBlock then
    d.goto (.slaveFrame { token := x, payload := [], point := .payload })
  else if x = tokPing then d.send [tokAck]
  else d.raise .protocol

/-- The SEQ step while `phase = Idle`: the slave frame handler takes a first byte, if it is enabled
(43_twin_replication.md R277). -/
def Device.slaveStart (d : Device) : Device :=
  if d.conn = .twinnedSlave then
    match d.recv with
    | some (x, d1) => d1.firstByte x
    | none => d
  else d

/-- The answer to REQ_CHKSM (43_twin_replication.md R280). -/
def Device.checksumReply (d : Device) (ok : Bool) (sum : Word) : Device :=
  (d.send (if ok then chksmFrame sum else [tokChksmBad])).slaveDone

/-- The SEQ step of phase SlaveFrame (43_twin_replication.md R279 to R281). -/
def Device.slaveStep (d : Device) (f : SlaveFrame) : Device :=
  match f.point with
  | .payload =>
    match d.recv with
    | some (x, d1) => d1.payloadByte f x
    | none => d
  | .checkStarted =>
    match d.bookResult with
    | some (.flag true) => d.takeBook.slaveFlash f (.erase f.block) .erasing
    | some (.flag false) => d.slaveBook f (.setFlag .randomDataStarted) .setStarted
    | _ => d
  | .setStarted =>
    match d.bookResult with
    | some .done => d.takeBook.slaveFlash f (.erase f.block) .erasing
    | _ => d
  | .erasing =>
    match d.flashResult with
    | some _ => d.takeFlash.slaveProgram f
    | none => d
  | .programming =>
    match d.flashResult with
    | some _ => (d.takeFlash.send [tokDataAck]).slaveDone
    | none => d
  | .checksum c =>
    match d.flashResult with
    | none => d
    | some r =>
      match d.takeFlash.checksumTurn c r with
      | (d1, .more c1) => d1.slaveFlash f c1.request (.checksum c1)
      | (d1, .finished ok sum) => d1.checksumReply ok sum
  | .marking =>
    match d.bookResult with
    | some .done => (d.takeBook.send [tokMarkAck]).slaveDone
    | _ => d

end Sys2Proof.Machine
end

