-- ==== Sys2Proof/Machine/Agents.lean ====
section
/-! DEFINITION. One atomic step of each agent of 00_scope.md R8, on this device or on the twin. -/

namespace Sys2Proof.Machine

/-- The SEQ step: the running operation goes from its await to the next, or nothing while the await holds; idle, the
slave frame handler may start (10_state.md R31, 43_twin_replication.md R277). -/
def Device.seqStep (d : Device) : Device :=
  match d.seq with
  | .idle => d.slaveStart
  | .negotiating p => d.negotiateStep p
  | .replicating tw p => d.replicateStep tw p
  | .checksumming c => d.checksumStep c
  | .slaveFrame f => d.slaveStep f

/-- The FLASH step: completes the outstanding request (20_memory.md R92). `content` is what a failure leaves in the
paragraph or block, or what a failed read returns (log entry 12). -/
def Device.flashStep (d : Device) (ok : Bool) (content : List Byte) : Device :=
  match d.flashReq with
  | none => d
  | some (.erase b) =>
    { d.setFlash (flashKey b 0 0) blockBytes (if ok then [] else content) with
      flashReq := none, flashResult := some ⟨ok, []⟩ }
  | some (.program b pg q bytes) =>
    { d.setFlash (flashKey b pg q) 528
        (if ok then List.zipWith (fun old new => old &&& new) (d.flashPara b pg q) bytes else content) with
      flashReq := none, flashResult := some ⟨ok, []⟩ }
  | some (.read b pg q) =>
    { d with flashReq := none, flashResult := some ⟨ok, if ok then d.flashPara b pg q else content⟩ }

/-- The answer of the bookkeeping collaborator (20_memory.md R96). -/
def Device.bookAnswer (d : Device) : BookRequest → BookResult
  | .blockStatus b => .status (d.blockStatus b)
  | .markBad _ => .done
  | .flagIsSet f => .flag (d.flags.get f)
  | .setFlag _ => .done

/-- The effect of a bookkeeping request on the collaborator (20_memory.md R96). -/
def Device.bookEffect (d : Device) : BookRequest → Device
  | .blockStatus _ => d
  | .markBad b => d.setBlockStatus b .bad
  | .flagIsSet _ => d
  | .setFlag f => { d with flags := d.flags.set f }

/-- The BOOK step: completes the outstanding request (20_memory.md R96). -/
def Device.bookStep (d : Device) : Device :=
  match d.bookReq with
  | none => d
  | some r => { d.bookEffect r with bookReq := none, bookResult := some (d.bookAnswer r) }

/-- The UART_RX step for byte `x` (20_memory.md R89). -/
def Device.receive (d : Device) (x : Byte) : Device :=
  if d.rxq.length < d.params.rxFifoDepth then { d with rxq := d.rxq ++ [x] } else d.raise .rxOverflow

/-- The byte an entry of TXQ puts on the link now (20_memory.md R90). -/
def Device.txByte (d : Device) : TxEntry → Byte
  | .lit x => x
  | .ref p i => d.bufByte p i

/-- What a RESET leaves of an outstanding flash request (70_reset_and_hazards.md R371): any content in the paragraph or
block it named; a read has no effect. -/
def Device.dropFlash (d : Device) (content : List Byte) : Device :=
  match d.flashReq with
  | some (.erase b) => d.setFlash (flashKey b 0 0) blockBytes content
  | some (.program b pg q _) => d.setFlash (flashKey b pg q) 528 content
  | _ => d

/-- What a RESET leaves of an outstanding bookkeeping request (70_reset_and_hazards.md R371): it took effect or not. -/
def Device.dropBook (d : Device) (tookEffect : Bool) : Device :=
  match d.bookReq with
  | some r => if tookEffect then d.bookEffect r else d
  | none => d

/-- The RESET step (70_reset_and_hazards.md R370 to R373): the block's state as after reset, with any buffer contents;
the parameters, the pin, the flash and the bookkeeping stay. -/
def Device.resetStep (d : Device) (draw : ResetDraw) : Device :=
  let d1 := (d.dropFlash draw.flashContent).dropBook draw.bookTookEffect
  { Device.fresh d.params with
    usbHost := d.usbHost
    readData := d.readData
    buf := Memory.writeBytes .buffers [] 0 (draw.buffers.take 1056)
    flash := d1.flash
    usage := d1.usage
    flags := d1.flags }

/-- The UART_RX step of this device: the oldest byte in flight to it arrives (20_memory.md R89, R91). -/
def State.uartRxStep (s : State) : State :=
  match s.lineIn with
  | [] => s
  | x :: rest => { s with dev := s.dev.receive x, lineIn := rest }

/-- The UART_TX step of this device: its byte goes on the link, and is lost if no twin is attached (20_memory.md R90,
R91). -/
def State.uartTxStep (s : State) : State :=
  match s.dev.txq with
  | [] => s
  | e :: rest =>
    { s with
      dev := { s.dev with txq := rest }
      lineOut := if s.twin.isSome then s.lineOut ++ [s.dev.txByte e] else s.lineOut }

/-- One step of an agent of this device (00_scope.md R8). -/
def act (a : Action) (s : State) : Host.Outcome State Fault Refusal :=
  match a with
  | .host acc => hostStep acc s
  | .seq => .next (s.withDev s.dev.seqStep)
  | .adc sample => .next (s.withDev (s.dev.adcStep sample))
  | .timer => .next (s.withDev s.dev.timerStep)
  | .uartRx => .next s.uartRxStep
  | .uartTx => .next s.uartTxStep
  | .flash ok content => .next (s.withDev (s.dev.flashStep ok content))
  | .book => .next (s.withDev s.dev.bookStep)
  | .reset draw => .next (s.withDev (s.dev.resetStep draw))
  | .usbHost level => .next (s.withDev { s.dev with usbHost := level })

/-- The same pair of devices seen from the twin; nothing without a twin. -/
def State.swapSides (s : State) : State :=
  match s.twin with
  | none => s
  | some t => { s with dev := t, twin := some s.dev, lineOut := s.lineIn, lineIn := s.lineOut }

/-- Applies a function to the state of a next outcome. -/
def mapNext (f : State → State) : Host.Outcome State Fault Refusal → Host.Outcome State Fault Refusal
  | .next s => .next (f s)
  | .fault r => .fault r
  | .refused r => .refused r

/-- One step of an agent of either device; the twin is another instance of the same block (60_exceptions.md R351), and
without one its agents do nothing. -/
def perform (e : Event) (s : State) : Host.Outcome State Fault Refusal :=
  match e.side with
  | .self => act e.action s
  | .twin =>
    match s.twin with
    | none => .next s
    | some _ => mapNext State.swapSides (act e.action s.swapSides)

/-- The next event and the state without it: the first pending one, or else one the free scheduling chooses
(00_scope.md R9, log entry 1). -/
def State.nextEvent (s : State) : Event × State :=
  match s.pending with
  | e :: rest => (e, { s with pending := rest })
  | [] => (Config.schedule s.eventCount, { s with eventCount := s.eventCount + 1 })

/-- The event that writes command word `w` to CMD (44_register_access.md R312). -/
def commandEvent (w : Word) : Event := ⟨.self, .host (.write32 0x000 w)⟩

end Sys2Proof.Machine
end

