-- ==== Sys2Proof/Machine/Step.lean ====
section
/-! DEFINITION. One step of the machine: one atomic step of one agent (00_scope.md R8, R9). -/

namespace Sys2Proof.Machine

/-- One step: the next event is performed (00_scope.md R8; log entry 1). -/
def step (s : State) : Host.Outcome State Fault Refusal :=
  perform s.nextEvent.1 s.nextEvent.2

/-- The state whose very next step is the HOST's write of the command word `w` to CMD (log entry 2). -/
def State.withFetchWord (s : State) (nbits w : Nat) : State :=
  { s with pending := commandEvent (BitVec.ofNat 32 (w % 2 ^ nbits)) :: s.pending }

end Sys2Proof.Machine
end

