-- ==== Sys2Proof/Safety.lean ====
section
/-! DEFINITION. The terms the statements use: runs of chosen agent steps, and the invariants of a device. -/

namespace Sys2Proof.Machine

/-- The steps of a list of agents of this device, in order. -/
def actAll : List Action → State → Host.Outcome State Fault Refusal
  | [], s => .next s
  | a :: rest, s =>
    match act a s with
    | .next t => actAll rest t
    | .fault r => .fault r
    | .refused r => .refused r

/-- The steps of a list of events of both devices, in order. -/
def performAll : List Event → State → Host.Outcome State Fault Refusal
  | [], s => .next s
  | e :: rest, s =>
    match perform e s with
    | .next t => performAll rest t
    | .fault r => .fault r
    | .refused r => .refused r

/-- ADC steps with the samples of a list, in order (41_rng.md R190). -/
def Device.adcAll (d : Device) (samples : List Half) : Device :=
  samples.foldl (fun d s => d.adcStep s) d

/-- `OP` has a command (30_encoding.md R123). -/
def opAssigned (op : Byte) : Bool :=
  decide (op ∈ ([0x00, 0x01, 0x02, 0x10, 0x11, 0x12, 0x20, 0x21, 0x22] : List Byte))

/-- The bits of a command word that `ReservedBits(op, w)` keeps (30_encoding.md R125). -/
def reservedMask (op : Byte) : Word :=
  if op = 0x01 ∨ op = 0x02 ∨ op = 0x20 then 0x00FFFFFE
  else if op = 0x11 then 0x00F00000
  else if op = 0x22 then 0x00FF0000
  else 0x00FFFFFF

/-- `InRange(op, w)` on the bits of the word (30_encoding.md R126). -/
def operandInRange (blockCount : Nat) (w : Word) : Bool :=
  if opOf w = 0x11 then decide ((w.extractLsb' 10 10).toNat + (w.extractLsb' 0 10).toNat ≤ 528)
  else if opOf w = 0x22 then
    decide ((w.extractLsb' 0 16).toNat ≠ 0) && decide ((w.extractLsb' 0 16).toNat < blockCount)
  else true

/-- A window offset (30_encoding.md R120). -/
def inWindow (a : Nat) : Bool :=
  (decide (0x400 ≤ a) && decide (a ≤ 0x60F)) || (decide (0x800 ≤ a) && decide (a ≤ 0xA0F))

/-- `Legal(a, n, read)` (44_register_access.md R311). -/
def readable (a : Nat) : Width → Bool
  | .word => decide (a ∈ [0x004, 0x008, 0x00C, 0x010, 0x014, 0x018, 0x020, 0x024, 0x028, 0x02C])
  | .byte => inWindow a

/-- The state with bits of `ERR` set and nothing else changed (60_exceptions.md R340). -/
def State.withErr (s : State) (bits : BitVec 10) : State :=
  { s with dev := { s.dev with err := s.dev.err ||| bits } }

/-- The state in which a HOST read has returned `v` and nothing else changed (log entry 9). -/
def State.readBack (s : State) (v : Word) : State :=
  { s with dev := { s.dev with readData := v } }

/-- `S(k, j)`, the syndrome of an inverted bit `j` of byte `k` (40_ecc.md R170). -/
def flipSyndrome (k j : Nat) : BitVec 25 :=
  BitVec.ofBool true ++
    BitVec.ofBool (j.testBit 2) ++ BitVec.ofBool (!j.testBit 2) ++
    BitVec.ofBool (j.testBit 1) ++ BitVec.ofBool (!j.testBit 1) ++
    BitVec.ofBool (j.testBit 0) ++ BitVec.ofBool (!j.testBit 0) ++
    ~~~(BitVec.ofNat 9 k) ++ BitVec.ofNat 9 k

/-- The 12-bit position `{k, j}` of bit `j` of byte `k` (40_ecc.md R171). -/
def bitPosition (k j : Nat) : BitVec 12 := BitVec.ofNat 12 (8 * k + j)

/-- `P` holds of this device and of the twin, if there is one. -/
def State.each (P : Device → Prop) (s : State) : Prop :=
  P s.dev ∧ ∀ t, s.twin = some t → P t

/-- The three lists of a device are in canonical form. -/
structure Device.MemInv (d : Device) : Prop where
  buf : Memory.wf .buffers d.buf = true
  flash : Memory.wf .flash d.flash = true
  usage : Sparse.wf unlistedStatus d.usage = true

/-- The sampler and the stream (10_state.md R43, R46): a stream is active exactly while bytes remain, it keeps the sampler
armed, it fits the buffer, and a cycle has room for its next sample. -/
structure Device.StreamInv (d : Device) : Prop where
  legal : d.params.legal = true
  active : d.streamActive = true ↔ 0 < d.srem
  armed : d.streamActive = true → d.rngArmed = true
  room : d.soff + d.srem ≤ 528
  count : d.scount < d.params.nSamples
  done : d.rngDone = true → d.rngArmed = false

/-- The negotiation state (10_state.md R50, 42_twin_negotiation.md R231, R242): its counters stay in their ranges, no
stream runs during an election, and the connection state is open exactly then. -/
structure Device.NegInv (d : Device) : Prop where
  time : d.negT ≤ Config.windowMs
  backoff : d.negD ≤ Config.backoffMax
  rounds : d.negRounds ≤ 255
  quiet : d.seq.phase = .negotiating → d.streamActive = false
  undecided : d.seq.phase = .negotiating → d.conn = .indeterminate ∨ d.conn = .collision
  colliding : d.conn = .collision → d.seq.phase = .negotiating
  sampling : d.seq = .negotiating .sample → d.rngArmed = true ∨ d.rngDone = true

/-- `(b, pg, q)` names a paragraph outside block 0 (20_memory.md R80, R82). -/
def paraIn (blockCount b pg q : Nat) : Bool :=
  decide (1 ≤ b) && decide (b < blockCount) && decide (pg ≤ 63) && decide (q ≤ 3)

/-- The paragraph or block a flash request names is outside block 0 (20_memory.md R82). -/
def FlashRequest.inBlocks (blockCount : Nat) : FlashRequest → Bool
  | .erase b => paraIn blockCount b 0 0
  | .program b pg q bytes => paraIn blockCount b pg q && decide (bytes.length = 528)
  | .read b pg q => paraIn blockCount b pg q

/-- The flash requests an await point waits for. -/
def SeqPoint.awaitsFlash : SeqPoint → FlashRequest → Bool
  | .replicating _ (.erasing b), .erase b' => decide (b = b')
  | .replicating _ (.programming b pg q), .program b' pg' q' _ => decide (b = b' ∧ pg = pg' ∧ q = q')
  | .replicating _ (.auditRead _ c), r => decide (r = c.request)
  | .checksumming c, r => decide (r = c.request)
  | .slaveFrame ⟨t, p, .erasing⟩, .erase b' => decide (SlaveFrame.block ⟨t, p, .erasing⟩ = b')
  | .slaveFrame ⟨t, p, .programming⟩, .program b' pg' q' _ =>
    decide (SlaveFrame.block ⟨t, p, .programming⟩ = b' ∧ SlaveFrame.page ⟨t, p, .programming⟩ = pg' ∧
      SlaveFrame.para ⟨t, p, .programming⟩ = q')
  | .slaveFrame ⟨_, _, .checksum c⟩, r => decide (r = c.request)
  | _, _ => false

/-- The bookkeeping requests an await point waits for. -/
def SeqPoint.awaitsBook : SeqPoint → BookRequest → Bool
  | .replicating _ .checkFinished, r => decide (r = .flagIsSet .randomDataFinished)
  | .replicating _ .checkStarted, r => decide (r = .flagIsSet .randomDataStarted)
  | .replicating _ .setStarted, r => decide (r = .setFlag .randomDataStarted)
  | .replicating _ (.status b), r => decide (r = .blockStatus b)
  | .replicating _ (.auditMark b), r => decide (r = .markBad b)
  | .replicating _ (.localMark b), r => decide (r = .markBad b)
  | .replicating _ .finishing, r => decide (r = .setFlag .randomDataFinished)
  | .slaveFrame ⟨_, _, .checkStarted⟩, r => decide (r = .flagIsSet .randomDataStarted)
  | .slaveFrame ⟨_, _, .setStarted⟩, r => decide (r = .setFlag .randomDataStarted)
  | .slaveFrame ⟨t, p, .marking⟩, r => decide (r = .markBad (SlaveFrame.block ⟨t, p, .marking⟩))
  | _, _ => false

/-- Whether a bookkeeping answer has the form its request asks for (20_memory.md R96). -/
def BookRequest.answers : BookRequest → BookResult → Bool
  | .blockStatus _, .status _ => true
  | .markBad _, .done => true
  | .flagIsSet _, .flag _ => true
  | .setFlag _, .done => true
  | _, _ => false

/-- The locals of a checksum name a paragraph outside block 0. -/
def ChecksumLoop.inBlocks (blockCount : Nat) (c : ChecksumLoop) : Bool :=
  paraIn blockCount c.b c.pg c.q

/-- The locals of an await point of the run are in range (43_twin_replication.md R263, R265, R267). -/
def RunPoint.inBlocks (blockCount : Nat) : RunPoint → Bool
  | .checkFinished => true
  | .checkStarted => true
  | .setStarted => true
  | .firstStream => true
  | .status b => paraIn blockCount b 0 0
  | .skipAck b => paraIn blockCount b 0 0
  | .erasing b => paraIn blockCount b 0 0
  | .fill b pg q _ => paraIn blockCount b pg q
  | .programming b pg q => paraIn blockCount b pg q
  | .dataAck b pg q _ => paraIn blockCount b pg q
  | .auditReply b _ => paraIn blockCount b 0 0
  | .auditSum b _ got => paraIn blockCount b 0 0 && decide (got.length ≤ 3)
  | .auditRead _ c => c.inBlocks blockCount
  | .auditMark b => paraIn blockCount b 0 0
  | .markAck b => paraIn blockCount b 0 0
  | .localMark b => paraIn blockCount b 0 0
  | .finishing => true

/-- The slave frame state is in range (10_state.md R51, 43_twin_replication.md R278): a frame still being read is shorter
than its token says; past that, it names a valid address. -/
def SlaveFrame.inBlocks (blockCount : Nat) (f : SlaveFrame) : Bool :=
  match f.point with
  | .payload =>
    decide (f.token = tokBeginData ∨ f.token = tokReqChksm ∨ f.token = tokMarkBlock) &&
      decide (f.payload.length < payloadLength f.token)
  | .checkStarted => paraIn blockCount f.block f.page f.para
  | .setStarted => paraIn blockCount f.block f.page f.para
  | .erasing => paraIn blockCount f.block f.page f.para
  | .programming => paraIn blockCount f.block f.page f.para
  | .checksum c => c.inBlocks blockCount
  | .marking => paraIn blockCount f.block 0 0

/-- The locals of an await point are in range. -/
def SeqPoint.inBlocks (blockCount : Nat) : SeqPoint → Bool
  | .idle => true
  | .negotiating _ => true
  | .replicating _ p => p.inBlocks blockCount
  | .checksumming c => c.inBlocks blockCount
  | .slaveFrame f => f.inBlocks blockCount

/-- The await points of a run after `REPL <- Running` (43_twin_replication.md R262, R275). -/
def SeqPoint.running : SeqPoint → Bool
  | .replicating _ .checkFinished => false
  | .replicating _ .checkStarted => false
  | .replicating _ .setStarted => false
  | .replicating _ _ => true
  | _ => false

/-- The connection state an operation runs in (43_twin_replication.md R260, R261, R277). -/
def SeqPoint.roleOk (c : Conn) : SeqPoint → Bool
  | .replicating tw _ => decide (c = if tw then .twinnedMaster else .single)
  | .slaveFrame _ => decide (c = .twinnedSlave)
  | _ => true

/-- The sequencer and its ports (10_state.md R33, R51, R55; 20_memory.md R82, R94): a request or its answer is there only
while its await is held, never both, every address is in range and outside block 0, the role fits the operation, REPL
reads Running exactly during a run, and RXQ is within its depth. -/
structure Device.SeqInv (d : Device) : Prop where
  flashReq : ∀ r, d.flashReq = some r →
    d.seq.awaitsFlash r = true ∧ r.inBlocks d.params.blockCount = true ∧ d.flashResult = none
  flashResult : ∀ x, d.flashResult = some x → (∃ r, d.seq.awaitsFlash r = true) ∧ d.flashReq = none
  bookReq : ∀ r, d.bookReq = some r → d.seq.awaitsBook r = true ∧ d.bookResult = none
  bookResult : ∀ x, d.bookResult = some x →
    (∃ r, d.seq.awaitsBook r = true ∧ r.answers x = true) ∧ d.bookReq = none
  inBlocks : d.seq.inBlocks d.params.blockCount = true
  role : d.seq.roleOk d.conn = true
  running : d.repl = .running ↔ d.seq.running = true
  depth : d.rxq.length ≤ d.params.rxFifoDepth

/-- The sum of a checksum in progress is at most what the paragraphs before it can give (43_twin_replication.md R271). -/
def ChecksumLoop.bounded (c : ChecksumLoop) : Bool :=
  decide (c.pg ≤ 63) && decide (c.q ≤ 3) && decide (c.sum.toNat ≤ (c.pg * 4 + c.q) * 130560)

/-- The checksum an await point is inside of, if any. -/
def SeqPoint.checksumLoop : SeqPoint → Option ChecksumLoop
  | .checksumming c => some c
  | .replicating _ (.auditRead _ c) => some c
  | .slaveFrame ⟨_, _, .checksum c⟩ => some c
  | _ => none

/-- No checksum of this device has wrapped or can wrap (43_twin_replication.md R271). -/
structure Device.SumInv (d : Device) : Prop where
  loop : ∀ c, d.seq.checksumLoop = some c → c.bounded = true
  register : d.chksum.toNat ≤ 33423360

/-- Every program request that waits carries 512 data bytes and the spare image of their code (43_twin_replication.md
R266). -/
def Device.CodedProgram (d : Device) : Prop :=
  ∀ b pg q bytes, d.flashReq = some (.program b pg q bytes) →
    bytes = bytes.take 512 ++ spareImage (eccGen (fun i => bytes.getD i 0)) ∧ bytes.length = 528

end Sys2Proof.Machine
end

