-- ==== Sys2Proof/Certificates/Slice0/Obligations.lean ====
section
/-! DEFINITION. The statements for the provers, from the numbered rules of the spec. `s` is a state of the machine, `act a s`
one step of an agent of this device, `hostStep` one MMIO access, `exec` the meaning of a decoded command. Where a statement
writes `flashResult`, `bookResult` or `readData`, it names a field of the model's own (log entries 10 and 9). -/

open Sys2Proof Sys2Proof.Machine

/-! ### Command words (30_encoding.md) -/

/-- 30_encoding.md R129: the word of each command, and that word decodes to it. -/
def Obligations.CommandWords : Prop :=
  (encode .nop = 0x00000000 ∧ decode 0x00000000 = .ok .nop) ∧
  (encode (.eccGen .nand) = 0x01000000 ∧ decode 0x01000000 = .ok (.eccGen .nand)) ∧
  (encode (.eccGen .rng) = 0x01000001 ∧ decode 0x01000001 = .ok (.eccGen .rng)) ∧
  (encode (.eccVerify .nand) = 0x02000000 ∧ decode 0x02000000 = .ok (.eccVerify .nand)) ∧
  (encode (.eccVerify .rng) = 0x02000001 ∧ decode 0x02000001 = .ok (.eccVerify .rng)) ∧
  (encode .rngStart = 0x10000000 ∧ decode 0x10000000 = .ok .rngStart) ∧
  (∀ off len : BitVec 10,
    encode (.rngBitsStart off len) = 0x11000000 ||| (off.setWidth 32 <<< 10) ||| len.setWidth 32) ∧
  decode 0x11084010 = .ok (.rngBitsStart 528 16) ∧
  (encode .bufSwap = 0x12000000 ∧ decode 0x12000000 = .ok .bufSwap) ∧
  (encode (.twinNegotiate false) = 0x20000000 ∧ decode 0x20000000 = .ok (.twinNegotiate false)) ∧
  (encode (.twinNegotiate true) = 0x20000001 ∧ decode 0x20000001 = .ok (.twinNegotiate true)) ∧
  (encode .twinReplicate = 0x21000000 ∧ decode 0x21000000 = .ok .twinReplicate) ∧
  (∀ b : Half, encode (.blockChecksum b) = 0x22000000 ||| b.setWidth 32) ∧
  decode 0x2200ABCD = .ok (.blockChecksum 0xABCD)

/-- 30_encoding.md R121 to R123: decoding the word of an instruction gives it back, every operand at every value its
field holds, through the decoder and through the host's reading of a table word. -/
def Obligations.DecodeInvertsEncode : Prop :=
  ∀ i : Instr, decode (encode i) = .ok i ∧ decodeTableWord 32 (encode i).toNat = some i

/-- 30_encoding.md R121, R125: a word decodes to at most one instruction, and only the word that instruction encodes to
does: no bit of a command word is ignored. -/
def Obligations.EncodeInvertsDecode : Prop :=
  ∀ (w : Word) (i : Instr), decode w = .ok i → encode i = w

/-- 30_encoding.md R124 to R127: the order of the checks of a CMD write, and what follows the last one. An unassigned `OP` is
ILLEGAL_CMD whether busy or not and whatever `ARG` holds. -/
def Obligations.CommandChecksInOrder : Prop :=
  (∀ op : Byte, opAssigned op = false ↔
    (0x03 ≤ op.toNat ∧ op.toNat ≤ 0x0F) ∨ (0x13 ≤ op.toNat ∧ op.toNat ≤ 0x1F) ∨ 0x23 ≤ op.toNat) ∧
  ∀ (w : Word) (s : State),
    if opAssigned (opOf w) = false then hostStep (.write32 0x000 w) s = .next (s.withErr 0x001)
    else if opOf w ≠ 0x00 ∧ s.dev.seq ≠ .idle then hostStep (.write32 0x000 w) s = .next (s.withErr 0x002)
    else if w &&& reservedMask (opOf w) ≠ 0 ∨ operandInRange s.dev.params.blockCount w = false then
      hostStep (.write32 0x000 w) s = .next (s.withErr 0x004)
    else ∃ i, decode w = .ok i ∧ encode i = w ∧ hostStep (.write32 0x000 w) s = exec i s

/-- 60_exceptions.md R343: while an operation runs, commands other than NOP and window writes are refused, and every legal
read and every write of ECC_CODE and ERR is performed. Where a read's answer lands is the model's choice (log entry 9). -/
def Obligations.BusyRefusesCommandsAndWindowWrites : Prop :=
  ∀ s : State, s.dev.seq ≠ .idle →
    (∀ w, opAssigned (opOf w) = true → opOf w ≠ 0x00 →
      hostStep (.write32 0x000 w) s = .next (s.withErr 0x002)) ∧
    (∀ (a : Offset) (v : Byte), inWindow a.toNat = true → hostStep (.write8 a v) s = .next (s.withErr 0x002)) ∧
    (∀ (a : Offset) (n : Width), readable a.toNat n = true →
      hostStep (.read a n) s = .next (s.readBack (s.dev.readTarget (targetOf a)))) ∧
    (∀ v, hostStep (.write32 0x008 v) s = .next { s with dev := { s.dev with eccCode := v } }) ∧
    (∀ v, hostStep (.write32 0x010 v) s =
      .next { s with dev := { s.dev with err := s.dev.err &&& ~~~(v.setWidth 10) } })

/-- 44_register_access.md R312 with log entries 1 and 2: when the next event is the HOST's write of a word that decodes to
`i`, the step is `exec i` on the state without that event; and `withFetchWord` places such an event. -/
def Obligations.StepRunsTheDecodedCommand : Prop :=
  (∀ (s : State) (w : Word) (i : Instr) (rest : List Event), s.pending = commandEvent w :: rest → decode w = .ok i →
    step s = exec i { s with pending := rest }) ∧
  (∀ (s : State) (nbits w : Nat) (i : Instr), decode (BitVec.ofNat 32 (w % 2 ^ nbits)) = .ok i →
    step (s.withFetchWord nbits w) = exec i s)

/-- 60_exceptions.md R340, R347, R348, R351: every step answers a next state, and a step of one device's agents leaves the
other device as it was. The event a step performs is the pending one or the one the schedule chooses (log entry 1). -/
def Obligations.EveryStepAnswersOnOneDevice : Prop :=
  ∀ s : State, ∃ t, step s = .next t ∧
    (s.nextEvent.1.side = .self → t.twin = s.twin) ∧
    (s.nextEvent.1.side = .twin → t.dev = s.dev) ∧
    (∀ e rest, s.pending = e :: rest → s.nextEvent.1 = e ∧ t.pending = rest ∧ t.eventCount = s.eventCount) ∧
    (s.pending = [] → s.nextEvent.1 = Config.schedule s.eventCount ∧ t.eventCount = s.eventCount + 1)

/-! ### What each command does (40_ecc.md to 44_register_access.md) -/

/-- 44_register_access.md R320: NOP changes nothing in any state; with a bit of `ARG` set it is BAD_ARG, busy or not. -/
def Obligations.NopChangesNothing : Prop :=
  ∀ s : State,
    exec .nop s = .next s ∧
    hostStep (.write32 0x000 0x00000000) s = .next s ∧
    ∀ w : Word, opOf w = 0x00 → w ≠ 0 → hostStep (.write32 0x000 w) s = .next (s.withErr 0x004)

/-- 40_ecc.md R164, R165: ECC_GEN writes the code of the role's 512 data bytes into ECC_CODE, bits [31:25] zero, and changes
nothing else; the code depends on no other byte. On the rng buffer, during a stream, both ECC commands raise BUF_BUSY. -/
def Obligations.EccGenWritesTheCode : Prop :=
  (∀ (r : Role) (s : State), s.dev.seq = .idle → (r = .rng → s.dev.streamActive = false) →
    exec (.eccGen r) s =
      .next { s with dev := { s.dev with
        eccCode := eccGen (fun i => s.dev.bufByte (if r = .nand then s.dev.sel else !s.dev.sel) i) } }) ∧
  (∀ d d' : Nat → Byte, (∀ i < 512, d i = d' i) → eccGen d = eccGen d') ∧
  (∀ d : Nat → Byte, (eccGen d).toNat < 2 ^ 25) ∧
  (∀ s : State, s.dev.seq = .idle → s.dev.streamActive = true →
    exec (.eccGen .rng) s = .next (s.withErr 0x040) ∧ exec (.eccVerify .rng) s = .next (s.withErr 0x040))

/-- 40_ecc.md R166: ECC_VERIFY verifies the role's data against ECC_CODE, leaves the corrected data in the buffer, reports
in ECC_SYN and ECC_RES, and changes nothing else: no other byte, no other register, no error bit. -/
def Obligations.EccVerifyReportsAndCorrects : Prop :=
  ∀ (r : Role) (s : State), s.dev.seq = .idle → (r = .rng → s.dev.streamActive = false) →
    let p := if r = .nand then s.dev.sel else !s.dev.sel
    let v := eccVerify (fun i => s.dev.bufByte p i) s.dev.eccCode
    ∃ t, exec (.eccVerify r) s = .next t ∧
      t = { s with dev := { s.dev with buf := t.dev.buf, eccSyn := v.syn, eccRes := v.res } } ∧
      (∀ i < 512, t.dev.bufByte p i = v.data i) ∧
      (∀ a, ¬ (bufKey p 0 ≤ a ∧ a < bufKey p 512) → Memory.read .buffers t.dev.buf a = Memory.read .buffers s.dev.buf a) ∧
      (v.res ≠ .corrected → t.dev.buf = s.dev.buf)

/-- 41_rng.md R194, R195: RNG_START arms the sampler for a new cycle and changes nothing else; a plain cycle in progress
starts again, with ACC as it is. A stream owns the sampler: RNG_START and RNG_BITS_START raise RNG_BUSY and change nothing. -/
def Obligations.RngStartArmsTheSampler : Prop :=
  ∀ s : State, s.dev.seq = .idle →
    (s.dev.streamActive = false →
      exec .rngStart s = .next { s with dev := { s.dev with scount := 0, rngDone := false, rngArmed := true } }) ∧
    (s.dev.streamActive = true →
      exec .rngStart s = .next (s.withErr 0x010) ∧
      ∀ off len : BitVec 10, off.toNat + len.toNat ≤ 528 → exec (.rngBitsStart off len) s = .next (s.withErr 0x010))

/-- 41_rng.md R196, R198: RNG_BITS_START with `LEN > 0` starts the stream; with `LEN = 0` it changes no state. -/
def Obligations.RngBitsStartBeginsTheStream : Prop :=
  ∀ (off len : BitVec 10) (s : State), s.dev.seq = .idle → s.dev.streamActive = false → off.toNat + len.toNat ≤ 528 →
    exec (.rngBitsStart off len) s =
      if len = 0 then .next s
      else .next { s with dev := { s.dev with
        soff := off.toNat, srem := len.toNat, streamActive := true, scount := 0, rngDone := false, rngArmed := true } }

/-- 41_rng.md R199, R200: BUF_SWAP exchanges the two roles and moves no byte; during a stream it raises SWAP_BUSY and
leaves SEL. -/
def Obligations.BufSwapExchangesTheRoles : Prop :=
  ∀ s : State, s.dev.seq = .idle →
    (s.dev.streamActive = false →
      exec .bufSwap s = .next { s with dev := { s.dev with sel := !s.dev.sel } } ∧
      ∀ t, exec .bufSwap s = .next t →
        (∀ i, t.dev.readTarget (.nandWindow i) = s.dev.readTarget (.rngWindow i) ∧
          t.dev.readTarget (.rngWindow i) = s.dev.readTarget (.nandWindow i)) ∧
        exec .bufSwap t = .next s) ∧
    (s.dev.streamActive = true → exec .bufSwap s = .next (s.withErr 0x020))

/-- 42_twin_negotiation.md R230 to R232: TWIN_NEGOTIATE starts the first round at its settle, from every connection state;
during a stream it raises RNG_BUSY and changes nothing. -/
def Obligations.TwinNegotiateStartsTheElection : Prop :=
  ∀ (force : Bool) (s : State), s.dev.seq = .idle →
    (s.dev.streamActive = false →
      exec (.twinNegotiate force) s = .next { s with dev := { s.dev with
        conn := .indeterminate, negForce := force, negPrio := true, negRounds := 0, negT := 0,
        seq := .negotiating .settle } }) ∧
    (s.dev.streamActive = true → exec (.twinNegotiate force) s = .next (s.withErr 0x010))

/-- 43_twin_replication.md R260 to R262: TWIN_REPLICATE starts a run only as Single or TwinnedMaster: it asks whether the
randomization is finished, the master flushing RXQ first; in every other role it raises ROLE and changes nothing. -/
def Obligations.TwinReplicateStartsTheRun : Prop :=
  ∀ s : State, s.dev.seq = .idle →
    (s.dev.conn = .single →
      exec .twinReplicate s = .next { s with dev := { s.dev with
        bookReq := some (.flagIsSet .randomDataFinished), bookResult := none,
        seq := .replicating false .checkFinished } }) ∧
    (s.dev.conn = .twinnedMaster →
      exec .twinReplicate s = .next { s with dev := { s.dev with
        rxq := [], bookReq := some (.flagIsSet .randomDataFinished), bookResult := none,
        seq := .replicating true .checkFinished } }) ∧
    (s.dev.conn = .indeterminate ∨ s.dev.conn = .twinnedSlave ∨ s.dev.conn = .collision →
      exec .twinReplicate s = .next (s.withErr 0x008))

/-- 43_twin_replication.md R272: BLOCK_CHECKSUM records its block and requests the first paragraph, in every connection
state; block 0 and blocks past the last are BAD_ARG. -/
def Obligations.BlockChecksumStartsAtTheFirstParagraph : Prop :=
  ∀ (b : Half) (s : State), s.dev.seq = .idle →
    (1 ≤ b.toNat ∧ b.toNat < s.dev.params.blockCount →
      exec (.blockChecksum b) s = .next { s with dev := { s.dev with
        curBlock := b, flashReq := some (.read b.toNat 0 0), flashResult := none,
        seq := .checksumming ⟨b.toNat, 0, 0, 0⟩ } }) ∧
    (b = 0 ∨ s.dev.params.blockCount ≤ b.toNat → exec (.blockChecksum b) s = .next (s.withErr 0x004))

/-! ### The code (40_ecc.md) -/

/-- 40_ecc.md R169: a correction inverts bit `j` of byte `k`, both in range, and nothing else; no other result changes the
data. -/
def Obligations.VerifyFlipsOneBitOrNone : Prop :=
  ∀ (d : Nat → Byte) (code : Word),
    let v := eccVerify d code
    let k := (v.syn.extractLsb' 0 9).toNat
    let j := 4 * (v.syn.getLsbD 23).toNat + 2 * (v.syn.getLsbD 21).toNat + (v.syn.getLsbD 19).toNat
    k < 512 ∧ j < 8 ∧
    (v.res = .corrected → ∀ i b, b < 8 →
      (v.data i).getLsbD b = if i = k ∧ b = j then !(d i).getLsbD b else (d i).getLsbD b) ∧
    (v.res ≠ .corrected → v.data = d)

/-- 40_ecc.md R170: one inverted data bit gives syndrome S(k, j), of weight 12 with the extended bit, and is corrected. -/
def Obligations.SingleErrorIsCorrected : Prop :=
  ∀ (d : Nat → Byte) (k j : Nat), k < 512 → j < 8 →
    let v := eccVerify (flipBit d k j) (eccGen d)
    v.syn = flipSyndrome k j ∧ synWeight v.syn = 12 ∧ synExt v.syn = true ∧ v.res = .corrected ∧ v.data = d

/-- 40_ecc.md R171: two inverted data bits are uncorrectable; the extended bit is 0 and the weight is twice the number of
position bits in which they differ. -/
def Obligations.DoubleErrorIsUncorrectable : Prop :=
  ∀ (d : Nat → Byte) (k1 j1 k2 j2 : Nat), k1 < 512 → j1 < 8 → k2 < 512 → j2 < 8 → (k1, j1) ≠ (k2, j2) →
    let e := flipBit (flipBit d k1 j1) k2 j2
    let v := eccVerify e (eccGen d)
    v.syn = flipSyndrome k1 j1 ^^^ flipSyndrome k2 j2 ∧ synExt v.syn = false ∧
      synWeight v.syn = 2 * popcount (bitPosition k1 j1 ^^^ bitPosition k2 j2) ∧
      v.syn ≠ 0 ∧ v.res = .uncorrectable ∧ v.data = e

/-- 40_ecc.md R172: a stored code wrong in one of bits [24:0] is CodeError; wrong only above them, NoError; one data bit
and one code bit wrong, Uncorrectable, with the weights the rule gives. -/
def Obligations.StoredCodeErrors : Prop :=
  ∀ (d : Nat → Byte) (code : Word),
    (code.setWidth 25 = (eccGen d).setWidth 25 →
      (eccVerify d code).syn = 0 ∧ (eccVerify d code).res = .noError ∧ (eccVerify d code).data = d) ∧
    ∀ b < 25, code.setWidth 25 = (eccGen d).setWidth 25 ^^^ (1#25 <<< b) →
      ((eccVerify d code).syn = 1#25 <<< b ∧ (eccVerify d code).res = .codeError ∧ (eccVerify d code).data = d) ∧
      ∀ k j, k < 512 → j < 8 →
        let v := eccVerify (flipBit d k j) code
        v.res = .uncorrectable ∧ v.data = flipBit d k j ∧
        (if b = 24 then synExt v.syn = false ∧ synWeight v.syn = 12
         else synExt v.syn = true ∧ synWeight v.syn = if (flipSyndrome k j).getLsbD b then 11 else 13)

/-- 40_ecc.md R173: unmodified data verifies with no mutation; and a triple error is always reported Corrected, with a
fourth bit inverted, so that the data does not come back. -/
def Obligations.RoundTripAndTripleErrors : Prop :=
  (∀ d : Nat → Byte, (eccVerify d (eccGen d)).res = .noError ∧ (eccVerify d (eccGen d)).syn = 0 ∧
    (eccVerify d (eccGen d)).data = d) ∧
  ∀ (d : Nat → Byte) (k1 j1 k2 j2 k3 j3 : Nat), k1 < 512 → j1 < 8 → k2 < 512 → j2 < 8 → k3 < 512 → j3 < 8 →
    (k1, j1) ≠ (k2, j2) → (k1, j1) ≠ (k3, j3) → (k2, j2) ≠ (k3, j3) →
    let e := flipBit (flipBit (flipBit d k1 j1) k2 j2) k3 j3
    let v := eccVerify e (eccGen d)
    v.res = .corrected ∧ ∃ k j, k < 512 ∧ j < 8 ∧ v.data = flipBit e k j ∧
      bitPosition k j = bitPosition k1 j1 ^^^ bitPosition k2 j2 ^^^ bitPosition k3 j3 ∧
      (k, j) ≠ (k1, j1) ∧ (k, j) ≠ (k2, j2) ∧ (k, j) ≠ (k3, j3)

/-- 40_ecc.md R174, with R165's corner case: 512 equal bytes have code 0x01FFFFFF; an erased paragraph verifies NoError;
a zeroed one gives the syndrome of weight 24 and is Uncorrectable. -/
def Obligations.ErasedAndZeroedParagraphs : Prop :=
  (∀ (x : Byte) (d : Nat → Byte), (∀ i < 512, d i = x) → eccGen d = 0x01FFFFFF) ∧
  (∀ d : Nat → Byte, (∀ i < 512, d i = 0xFF) → (eccVerify d 0xFFFFFFFF).res = .noError) ∧
  (∀ d : Nat → Byte, (∀ i < 512, d i = 0x00) →
    (eccVerify d 0).syn = 0x1FFFFFF ∧ synWeight (eccVerify d 0).syn = 24 ∧ synExt (eccVerify d 0).syn = true ∧
      (eccVerify d 0).res = .uncorrectable)

/-- 40_ecc.md R175: the extended bit is the exclusive-or of each pair of column parities. -/
def Obligations.ExtendedBitIsEachColumnPair : Prop :=
  ∀ d : Nat → Byte,
    (eccRaw d).getLsbD 24 = ((eccRaw d).getLsbD 18 ^^ (eccRaw d).getLsbD 19) ∧
    (eccRaw d).getLsbD 24 = ((eccRaw d).getLsbD 20 ^^ (eccRaw d).getLsbD 21) ∧
    (eccRaw d).getLsbD 24 = ((eccRaw d).getLsbD 22 ^^ (eccRaw d).getLsbD 23)

/-- 40_ecc.md R165, R166, R170 through the registers: ECC_GEN, one data bit inverted by a window write, ECC_VERIFY: every
buffer byte is back, ECC_RES reads Corrected, ECC_CODE holds the code and no error bit is set. -/
def Obligations.GenFlipVerifyRestores : Prop :=
  ∀ (s : State) (k j : Nat), k < 512 → j < 8 → s.dev.seq = .idle →
    let v := s.dev.bufByte s.dev.sel k ^^^ (1#8 <<< j)
    ∃ t, actAll [.host (.write32 0x000 0x01000000), .host (.write8 (BitVec.ofNat 12 (0x400 + k)) v),
        .host (.write32 0x000 0x02000000)] s = .next t ∧
      t = { s with dev := { s.dev with
        buf := t.dev.buf, eccCode := eccGen (fun i => s.dev.bufByte s.dev.sel i), eccSyn := flipSyndrome k j,
        eccRes := .corrected } } ∧
      ∀ a, Memory.read .buffers t.dev.buf a = Memory.read .buffers s.dev.buf a

/-! ### The RNG unit (41_rng.md) -/

/-- 41_rng.md R190 to R192: one sample: ignored while not armed; else mixed into one accumulator word and counted, and the
last of a cycle ends it in the same step. Without a stream the sampler then stops; with one the next bytes of Ser(ACC), at
most 16, go to the rng buffer at SOFF, and the sampler stops after the last. -/
def Obligations.AdcSampleMixesAndDelivers : Prop :=
  (∀ (s : State) (x : Half),
    (s.dev.rngArmed = false → act (.adc x) s = .next s) ∧
    (s.dev.rngArmed = true → ∃ d, d = { s.dev with acc := d.acc, scount := s.dev.scount + 1 } ∧
      (∀ k < 8, d.accWord k =
        if k = s.dev.scount % 8 then rotl16 (s.dev.accWord k) 1 ^^^ x else s.dev.accWord k) ∧
      act (.adc x) s = if s.dev.scount + 1 = s.dev.params.nSamples then .next { s with dev := d.cycleEnd }
        else .next { s with dev := d })) ∧
  ∀ d : Device,
    (d.streamActive = false → d.cycleEnd = { d with scount := 0, rngArmed := false, rngDone := true }) ∧
    (d.streamActive = true →
      let n := min 16 d.srem
      d.cycleEnd = { d with
        buf := d.cycleEnd.buf, scount := 0, soff := d.soff + n, srem := d.srem - n,
        streamActive := decide (n < d.srem),
        rngArmed := if n < d.srem then d.rngArmed else false,
        rngDone := if n < d.srem then d.rngDone else true } ∧
      (∀ m < n, Memory.read .buffers d.cycleEnd.buf (bufKey (!d.sel) (d.soff + m)) =
        (if m % 2 = 0 then (d.accWord (m / 2)).extractLsb' 0 8 else (d.accWord (m / 2)).extractLsb' 8 8)) ∧
      (∀ a, ¬ (bufKey (!d.sel) d.soff ≤ a ∧ a < bufKey (!d.sel) (d.soff + n)) →
        Memory.read .buffers d.cycleEnd.buf a = Memory.read .buffers d.buf a))

/-- 41_rng.md R193: the closed form of one cycle, and its consequence for 128 samples: the same samples again give ACC
back. -/
def Obligations.CycleClosedForm : Prop :=
  (∀ (d : Device) (xs : List Half), d.params.legal = true → d.rngArmed = true → d.scount = 0 →
    xs.length = d.params.nSamples → ∀ k < 8,
      let c := (d.params.nSamples - 1 - k) / 8 + 1
      (d.adcAll xs).accWord k = rotl16 (d.accWord k) (c % 16) ^^^
        (List.range c).foldl (fun a m => a ^^^ rotl16 (xs.getD (8 * m + k) 0) ((c - 1 - m) % 16)) 0) ∧
  (∀ (d : Device) (xs : List Half), d.params.nSamples = 128 → d.rngArmed = true → d.scount = 0 →
    d.streamActive = false → xs.length = 128 →
    ((d.adcAll xs).startCycle.adcAll xs).acc = d.acc)

/-- 41_rng.md R191, 70_reset_and_hazards.md R391: a stream of `LEN` bytes is active until exactly `ceil(LEN / 16)` cycles of
samples have been taken; byte `i` is byte `i mod 16` of Ser(ACC) at the end of cycle `i / 16`, and no other buffer byte
changes. -/
def Obligations.StreamTakesItsCycles : Prop :=
  ∀ (d : Device) (xs : List Half), d.params.legal = true → d.streamActive = true → d.rngArmed = true → d.scount = 0 →
    1 ≤ d.srem → d.soff + d.srem ≤ 528 → xs.length = (d.srem + 15) / 16 * d.params.nSamples →
    (∀ n < xs.length, (d.adcAll (xs.take n)).streamActive = true ∧ (d.adcAll (xs.take n)).rngArmed = true) ∧
    (let e := d.adcAll xs
     e = { d with acc := e.acc, buf := e.buf, scount := 0, soff := d.soff + d.srem, srem := 0, streamActive := false,
                  rngArmed := false, rngDone := true } ∧
     (∀ i < d.srem, e.bufByte (!d.sel) (d.soff + i) =
       (accBytes (d.adcAll (xs.take ((i / 16 + 1) * d.params.nSamples)))).getD (i % 16) 0) ∧
     (∀ a, ¬ (bufKey (!d.sel) d.soff ≤ a ∧ a < bufKey (!d.sel) (d.soff + d.srem)) →
       Memory.read .buffers e.buf a = Memory.read .buffers d.buf a))

/-! ### The election (42_twin_negotiation.md) -/

/-- 42_twin_negotiation.md R232, R233: after the settle, a forced round or one with USB priority takes `d = 0` and draws
no sample; any other starts a sampling cycle and takes `d = 3 + (ACC[0] mod 65)` at its end. -/
def Obligations.BackoffIsForcedOrDrawn : Prop :=
  ∀ s : State,
    (s.dev.seq = .negotiating .settle →
      (s.dev.negT = 0 → act .seq s = .next s) ∧
      (1 ≤ s.dev.negT → s.dev.negForce = true ∨ (s.dev.negPrio = true ∧ s.dev.usbHost = true) →
        act .seq s = .next { s with dev := { s.dev with negD := 0, negT := 0, seq := .negotiating .listen } }) ∧
      (1 ≤ s.dev.negT → s.dev.negForce = false → s.dev.negPrio = false ∨ s.dev.usbHost = false →
        act .seq s = .next { s with dev := { s.dev with
          scount := 0, rngDone := false, rngArmed := true, seq := .negotiating .sample } })) ∧
    (s.dev.seq = .negotiating .sample →
      (s.dev.rngDone = false → act .seq s = .next s) ∧
      (s.dev.rngDone = true →
        act .seq s = .next { s with dev := { s.dev with
          negD := 3 + (s.dev.accWord 0).toNat % 65, negT := 0, seq := .negotiating .listen } }))

/-- 42_twin_negotiation.md R234 to R236, R238, R239: the listen of `d` ms: a PING is answered and ends the election as slave,
and when the time is over with no byte waiting a PING is sent. The rest of the window: ACK makes a master, PING a collision
and a new round without force and priority, silence to its end a single device. Any other byte is discarded. -/
def Obligations.RoundReadsItsBytes : Prop :=
  ∀ s : State,
    (s.dev.seq = .negotiating .listen →
      (∀ rest, s.dev.rxq = 0x50 :: rest →
        act .seq s = .next { s with dev := { s.dev with
          rxq := rest, txq := s.dev.txq ++ [.lit 0x41], conn := .twinnedSlave, seq := .idle } }) ∧
      (∀ x rest, s.dev.rxq = x :: rest → x ≠ 0x50 →
        act .seq s = .next { s with dev := { s.dev with rxq := rest } }) ∧
      (s.dev.rxq = [] → s.dev.negD ≤ s.dev.negT →
        act .seq s = .next { s with dev := { s.dev with
          txq := s.dev.txq ++ [.lit 0x50], seq := .negotiating .window } }) ∧
      (s.dev.rxq = [] → s.dev.negT < s.dev.negD → act .seq s = .next s)) ∧
    (s.dev.seq = .negotiating .window →
      (∀ rest, s.dev.rxq = 0x41 :: rest →
        act .seq s = .next { s with dev := { s.dev with rxq := rest, conn := .twinnedMaster, seq := .idle } }) ∧
      (∀ rest, s.dev.rxq = 0x50 :: rest →
        act .seq s = .next { s with dev := { s.dev with
          rxq := rest, conn := .collision, negRounds := min 255 (s.dev.negRounds + 1), negForce := false,
          negPrio := false, negT := 0, seq := .negotiating .settle } }) ∧
      (∀ x rest, s.dev.rxq = x :: rest → x ≠ 0x41 → x ≠ 0x50 →
        act .seq s = .next { s with dev := { s.dev with rxq := rest } }) ∧
      (s.dev.rxq = [] → 1000 ≤ s.dev.negT →
        act .seq s = .next { s with dev := { s.dev with conn := .single, seq := .idle } }) ∧
      (s.dev.rxq = [] → s.dev.negT < 1000 → act .seq s = .next s))

/-- 42_twin_negotiation.md R240: a tick counts NEG_T up to WINDOW_MS during a negotiation and changes nothing else; outside
one it changes nothing. -/
def Obligations.TimerCountsOnlyNegotiations : Prop :=
  ∀ s : State,
    (∀ p, s.dev.seq = .negotiating p →
      act .timer s = .next { s with dev := { s.dev with negT := min 1000 (s.dev.negT + 1) } }) ∧
    (s.dev.seq.phase ≠ .negotiating → act .timer s = .next s)

/-- 42_twin_negotiation.md R230 (its example), R241: a forced election in which no byte arrives ends Single after
`SETTLE_MS + WINDOW_MS` ticks, having sent one PING and drawn no sample; one tick earlier it has not ended. -/
def Obligations.ForcedElectionAlone : Prop :=
  ∀ s : State, s.dev.seq = .idle → s.dev.streamActive = false → s.dev.rxq = [] →
    let start : List Action := [.host (.write32 0x000 0x20000001), .timer, .seq, .seq]
    actAll (start ++ List.replicate 1000 .timer ++ [.seq]) s = .next { s with dev := { s.dev with
      conn := .single, seq := .idle, negForce := true, negPrio := true, negRounds := 0, negD := 0, negT := 1000,
      txq := s.dev.txq ++ [.lit 0x50] } } ∧
    ∃ t, actAll (start ++ List.replicate 999 .timer ++ [.seq]) s = .next t ∧
      t.dev.seq = .negotiating .window ∧ t.dev.conn = .indeterminate

/-- 42_twin_negotiation.md R242, 10_state.md R47: what may write CONN. A role comes only from the byte, or the silence,
that the election asks for, and ends the election. -/
def Obligations.ConnIsWrittenOnlyByTheElection : Prop :=
  ∀ (a : Action) (s : State), ∃ t, act a s = .next t ∧ (t.dev.conn ≠ s.dev.conn →
    match t.dev.conn with
    | .indeterminate =>
      (∃ f, a = .host (.write32 0x000 (encode (.twinNegotiate f))) ∧ s.dev.seq = .idle) ∨ ∃ draw, a = .reset draw
    | .single => a = .seq ∧ s.dev.seq = .negotiating .window ∧ s.dev.rxq = [] ∧ 1000 ≤ s.dev.negT ∧ t.dev.seq = .idle
    | .twinnedMaster =>
      a = .seq ∧ s.dev.seq = .negotiating .window ∧ s.dev.rxq.head? = some 0x41 ∧ t.dev.seq = .idle
    | .twinnedSlave =>
      a = .seq ∧ s.dev.seq = .negotiating .listen ∧ s.dev.rxq.head? = some 0x50 ∧
        t.dev.txq = s.dev.txq ++ [.lit 0x41] ∧ t.dev.seq = .idle
    | .collision =>
      a = .seq ∧ s.dev.seq = .negotiating .window ∧ s.dev.rxq.head? = some 0x50 ∧
        t.dev.seq = .negotiating .settle)

/-! ### The replication run and the block checksum (43_twin_replication.md) -/

/-- 43_twin_replication.md R262, R263: what the two write-once flags make of a run, and its way to the first block. -/
def Obligations.RunStartFollowsTheFlags : Prop :=
  ∀ (s : State) (tw : Bool),
    (s.dev.seq = .replicating tw .checkFinished →
      (s.dev.bookResult = some (.flag true) →
        act .seq s = .next { s with dev := { s.dev with bookResult := none, repl := .skipped, seq := .idle } }) ∧
      (s.dev.bookResult = some (.flag false) →
        act .seq s = .next { s with dev := { s.dev with
          bookReq := some (.flagIsSet .randomDataStarted), bookResult := none,
          seq := .replicating tw .checkStarted } })) ∧
    (s.dev.seq = .replicating tw .checkStarted →
      (s.dev.bookResult = some (.flag true) →
        act .seq s = .next { s with dev := { s.dev with
          bookResult := none, repl := .running, seq := .replicating tw .firstStream } }) ∧
      (s.dev.bookResult = some (.flag false) →
        act .seq s = .next { s with dev := { s.dev with
          bookReq := some (.setFlag .randomDataStarted), bookResult := none,
          seq := .replicating tw .setStarted } })) ∧
    (s.dev.seq = .replicating tw .setStarted → s.dev.bookResult = some .done →
      act .seq s = .next { s with dev := { s.dev with
        bookResult := none, repl := .running, seq := .replicating tw .firstStream } }) ∧
    (s.dev.seq = .replicating tw .firstStream →
      (s.dev.streamActive = true → act .seq s = .next s) ∧
      (s.dev.streamActive = false → 1 < s.dev.params.blockCount →
        act .seq s = .next { s with dev := { s.dev with
          soff := 0, srem := 512, streamActive := true, scount := 0, rngDone := false, rngArmed := true,
          curBlock := 1, bookReq := some (.blockStatus 1), bookResult := none,
          seq := .replicating tw (.status 1) } }))

/-- 43_twin_replication.md R263, R264, R269: a Bad block is skipped, and announced to the slave when twinned; any other is
erased; after the last block the run sets random_data_finished and ends Finished. -/
def Obligations.BlockLoopSkipsBadBlocks : Prop :=
  ∀ (s : State) (tw : Bool) (b : Nat),
    (s.dev.seq = .replicating tw (.status b) →
      (∀ st, s.dev.bookResult = some (.status st) → st ≠ .bad →
        act .seq s = .next { s with dev := { s.dev with
          bookResult := none, flashReq := some (.erase b), flashResult := none,
          seq := .replicating tw (.erasing b) } }) ∧
      (s.dev.bookResult = some (.status .bad) → tw = true →
        act .seq s = .next { s with dev := { s.dev with
          bookResult := none,
          txq := s.dev.txq ++ [.lit 0x4D, .lit (BitVec.ofNat 8 b), .lit (BitVec.ofNat 8 (b / 256))],
          seq := .replicating tw (.skipAck b) } }) ∧
      (s.dev.bookResult = some (.status .bad) → tw = false → b + 1 < s.dev.params.blockCount →
        act .seq s = .next { s with dev := { s.dev with
          curBlock := BitVec.ofNat 16 (b + 1), bookReq := some (.blockStatus (b + 1)), bookResult := none,
          seq := .replicating tw (.status (b + 1)) } }) ∧
      (s.dev.bookResult = some (.status .bad) → tw = false → b + 1 = s.dev.params.blockCount →
        act .seq s = .next { s with dev := { s.dev with
          bookReq := some (.setFlag .randomDataFinished), bookResult := none,
          seq := .replicating tw .finishing } })) ∧
    (∀ r, s.dev.seq = .replicating tw (.erasing b) → s.dev.flashResult = some r →
      act .seq s = .next { s with dev := { s.dev with
        flashResult := none, seq := .replicating tw (.fill b 0 0 (!r.ok)) } }) ∧
    (s.dev.seq = .replicating tw .finishing → s.dev.bookResult = some .done →
      act .seq s = .next { s with dev := { s.dev with bookResult := none, repl := .finished, seq := .idle } })

/-- 43_twin_replication.md R264 to R267: one paragraph from the full off-buffer to its requests: the roles are exchanged,
the stream restarts into the other buffer, the spare image of the data's code is written, the frame is sent by reference when
twinned, and the 528 bytes are programmed unless the block is bad. A bad block's paragraph goes on without a program: twinned
to DATA_ACK, not twinned to the next paragraph, or after (63, 3) to MarkBad. Nothing else changes. -/
def Obligations.ParagraphSwapsSendsAndPrograms : Prop :=
  ∀ (s : State) (tw : Bool) (b pg q : Nat) (bad : Bool), s.dev.seq = .replicating tw (.fill b pg q bad) →
    (s.dev.streamActive = true → act .seq s = .next s) ∧
    (s.dev.streamActive = false → ∃ t, act .seq s = .next t ∧
      (let p := !s.dev.sel
       let code := eccGen (fun i => s.dev.bufByte p i)
       let marks := tw = false ∧ bad = true ∧ ¬ (q < 3 ∨ pg < 63)
       t = { s with dev := { s.dev with
        buf := t.dev.buf, sel := p,
        soff := 0, srem := 512, streamActive := true, scount := 0, rngDone := false, rngArmed := true,
        txq := if tw then s.dev.txq ++ ([.lit 0x44, .lit (BitVec.ofNat 8 b), .lit (BitVec.ofNat 8 (b / 256)),
          .lit (BitVec.ofNat 8 pg), .lit (BitVec.ofNat 8 q)] ++ (List.range 512).map (fun i => .ref p i))
          else s.dev.txq,
        flashReq := if bad then s.dev.flashReq
          else some (.program b pg q ((List.range 512).map (fun i => s.dev.bufByte p i) ++ spareImage code)),
        flashResult := if bad then s.dev.flashResult else none,
        bookReq := if marks then some (.markBad b) else s.dev.bookReq,
        bookResult := if marks then none else s.dev.bookResult,
        seq := .replicating tw (
          if bad = false then .programming b pg q
          else if tw then .dataAck b pg q true
          else if q < 3 then .fill b pg (q + 1) true
          else if pg < 63 then .fill b (pg + 1) 0 true
          else .localMark b) } } ∧
      (∀ i < 512, t.dev.bufByte p i = s.dev.bufByte p i) ∧
      (∀ i < 16, t.dev.bufByte p (512 + i) = (spareImage code).getD i 0) ∧
      ∀ a, ¬ (bufKey p 512 ≤ a ∧ a < bufKey p 528) →
        Memory.read .buffers t.dev.buf a = Memory.read .buffers s.dev.buf a))

/-- 43_twin_replication.md R265, R267: after the program: a failure makes the block bad; the master awaits DATA_ACK; then
comes the next paragraph in order, and after paragraph (63, 3) the audit; not twinned, a failed block is marked Bad and the
next block follows. -/
def Obligations.ParagraphsGoInOrderToTheAudit : Prop :=
  ∀ (s : State) (b pg q : Nat),
    (∀ r, s.dev.seq = .replicating true (.programming b pg q) → s.dev.flashResult = some r →
      act .seq s = .next { s with dev := { s.dev with
        flashResult := none, seq := .replicating true (.dataAck b pg q (!r.ok)) } }) ∧
    (∀ r, s.dev.seq = .replicating false (.programming b pg q) → s.dev.flashResult = some r →
      (q < 3 → act .seq s = .next { s with dev := { s.dev with
        flashResult := none, seq := .replicating false (.fill b pg (q + 1) (!r.ok)) } }) ∧
      (q = 3 → pg < 63 → act .seq s = .next { s with dev := { s.dev with
        flashResult := none, seq := .replicating false (.fill b (pg + 1) 0 (!r.ok)) } }) ∧
      (q = 3 → pg = 63 → r.ok = false → act .seq s = .next { s with dev := { s.dev with
        flashResult := none, bookReq := some (.markBad b), bookResult := none,
        seq := .replicating false (.localMark b) } }) ∧
      (q = 3 → pg = 63 → r.ok = true → act .seq s =
        if b + 1 < s.dev.params.blockCount then .next { s with dev := { s.dev with
          flashResult := none, curBlock := BitVec.ofNat 16 (b + 1), bookReq := some (.blockStatus (b + 1)),
          bookResult := none, seq := .replicating false (.status (b + 1)) } }
        else .next { s with dev := { s.dev with
          flashResult := none, bookReq := some (.setFlag .randomDataFinished), bookResult := none,
          seq := .replicating false .finishing } })) ∧
    (s.dev.seq = .replicating false (.localMark b) → s.dev.bookResult = some .done → act .seq s =
      if b + 1 < s.dev.params.blockCount then .next { s with dev := { s.dev with
        curBlock := BitVec.ofNat 16 (b + 1), bookReq := some (.blockStatus (b + 1)), bookResult := none,
        seq := .replicating false (.status (b + 1)) } }
      else .next { s with dev := { s.dev with
        bookReq := some (.setFlag .randomDataFinished), bookResult := none, seq := .replicating false .finishing } }) ∧
    (∀ bad rest, s.dev.seq = .replicating true (.dataAck b pg q bad) → s.dev.rxq = 0x64 :: rest →
      (q < 3 → act .seq s = .next { s with dev := { s.dev with
        rxq := rest, seq := .replicating true (.fill b pg (q + 1) bad) } }) ∧
      (q = 3 → pg < 63 → act .seq s = .next { s with dev := { s.dev with
        rxq := rest, seq := .replicating true (.fill b (pg + 1) 0 bad) } }) ∧
      (q = 3 → pg = 63 → act .seq s = .next { s with dev := { s.dev with
        rxq := rest,
        txq := s.dev.txq ++ [.lit 0x43, .lit (BitVec.ofNat 8 b), .lit (BitVec.ofNat 8 (b / 256))],
        seq := .replicating true (.auditReply b bad) } }))

/-- 43_twin_replication.md R268: a reply the run does not expect ends it Aborted with ERR.PROTOCOL; the byte is gone from
RXQ and nothing else changes: CUR_BLOCK, the stream, TXQ, the buffers and the flags stay. -/
def Obligations.UnexpectedReplyAborts : Prop :=
  ∀ (s : State) (tw : Bool) (p : RunPoint) (x : Byte) (rest : List Byte),
    s.dev.seq = .replicating tw p → s.dev.rxq = x :: rest →
    ((∃ b, (p = .skipAck b ∨ p = .markAck b) ∧ x ≠ 0x6D) ∨ (∃ b pg q bad, p = .dataAck b pg q bad ∧ x ≠ 0x64) ∨
      (∃ b bad, p = .auditReply b bad ∧ x ≠ 0x63 ∧ x ≠ 0x78)) →
    act .seq s = .next { s with dev := { s.dev with
      rxq := rest, err := s.dev.err ||| 0x100, repl := .aborted, seq := .idle } }

/-- 43_twin_replication.md R267, R270: the audit: the slave's four sum bytes are read little-endian; a bad block is marked Bad
whatever the slave replies; else the master's own checksum runs over every paragraph (its turns are those of
ChecksumAddsCorrectedData), and the block passes only if that is ok and equal to the slave's; else it is marked Bad here and
MARK_BLOCK is sent. MARK_ACK leads to the next block or to the end of the run. -/
def Obligations.AuditMarksDifferingBlocks : Prop :=
  ∀ (s : State) (b : Nat),
    (∀ bad rest, s.dev.seq = .replicating true (.auditReply b bad) → s.dev.rxq = 0x63 :: rest →
      act .seq s = .next { s with dev := { s.dev with
        rxq := rest, seq := .replicating true (.auditSum b bad []) } }) ∧
    (∀ bad got x rest, s.dev.seq = .replicating true (.auditSum b bad got) → got.length < 3 → s.dev.rxq = x :: rest →
      act .seq s = .next { s with dev := { s.dev with
        rxq := rest, seq := .replicating true (.auditSum b bad (got ++ [x])) } }) ∧
    (∀ s0 s1 s2 x rest, s.dev.seq = .replicating true (.auditSum b true [s0, s1, s2]) → s.dev.rxq = x :: rest →
      act .seq s = .next { s with dev := { s.dev with
        rxq := rest, bookReq := some (.markBad b), bookResult := none,
        seq := .replicating true (.auditMark b) } }) ∧
    (∀ s0 s1 s2 x rest, s.dev.seq = .replicating true (.auditSum b false [s0, s1, s2]) → s.dev.rxq = x :: rest →
      act .seq s = .next { s with dev := { s.dev with
        rxq := rest, flashReq := some (.read b 0 0), flashResult := none,
        seq := .replicating true (.auditRead (some (x ++ s2 ++ s1 ++ s0)) ⟨b, 0, 0, 0⟩) } }) ∧
    (∀ rest, s.dev.seq = .replicating true (.auditReply b false) → s.dev.rxq = 0x78 :: rest →
      act .seq s = .next { s with dev := { s.dev with
        rxq := rest, flashReq := some (.read b 0 0), flashResult := none,
        seq := .replicating true (.auditRead none ⟨b, 0, 0, 0⟩) } }) ∧
    (∀ rest, s.dev.seq = .replicating true (.auditReply b true) → s.dev.rxq = 0x78 :: rest →
      act .seq s = .next { s with dev := { s.dev with
        rxq := rest, bookReq := some (.markBad b), bookResult := none,
        seq := .replicating true (.auditMark b) } }) ∧
    (∀ remote c r d c1, s.dev.seq = .replicating true (.auditRead remote c) → s.dev.flashResult = some r →
      { s.dev with flashResult := none }.checksumTurn c r = (d, .more c1) →
      act .seq s = .next { s with dev := { d with
        flashReq := some (.read c1.b c1.pg c1.q), flashResult := none,
        seq := .replicating true (.auditRead remote c1) } }) ∧
    (∀ remote c r d ok total, s.dev.seq = .replicating true (.auditRead remote c) → s.dev.flashResult = some r →
      c.b = b → { s.dev with flashResult := none }.checksumTurn c r = (d, .finished ok total) →
      act .seq s =
        if ok = true ∧ remote = some total then
          if b + 1 < d.params.blockCount then .next { s with dev := { d with
            curBlock := BitVec.ofNat 16 (b + 1), bookReq := some (.blockStatus (b + 1)), bookResult := none,
            seq := .replicating true (.status (b + 1)) } }
          else .next { s with dev := { d with
            bookReq := some (.setFlag .randomDataFinished), bookResult := none, seq := .replicating true .finishing } }
        else .next { s with dev := { d with
          bookReq := some (.markBad b), bookResult := none, seq := .replicating true (.auditMark b) } }) ∧
    (s.dev.seq = .replicating true (.auditMark b) → s.dev.bookResult = some .done →
      act .seq s = .next { s with dev := { s.dev with
        bookResult := none,
        txq := s.dev.txq ++ [.lit 0x4D, .lit (BitVec.ofNat 8 b), .lit (BitVec.ofNat 8 (b / 256))],
        seq := .replicating true (.markAck b) } }) ∧
    (∀ p rest, p = .skipAck b ∨ p = .markAck b → s.dev.seq = .replicating true p → s.dev.rxq = 0x6D :: rest →
      act .seq s =
        if b + 1 < s.dev.params.blockCount then .next { s with dev := { s.dev with
          rxq := rest, curBlock := BitVec.ofNat 16 (b + 1), bookReq := some (.blockStatus (b + 1)), bookResult := none,
          seq := .replicating true (.status (b + 1)) } }
        else .next { s with dev := { s.dev with
          rxq := rest, bookReq := some (.setFlag .randomDataFinished), bookResult := none,
          seq := .replicating true .finishing } })

/-- 43_twin_replication.md R270, R272: one turn of a checksum on a paragraph read from flash, the same for BLOCK_CHECKSUM,
the audit and the slave: a failed read or an uncorrectable paragraph ends it with the sum so far; else the corrected data
stays in the nand buffer and is added, and the next paragraph follows or, after (63, 3), the sum is complete; no other buffer
changes. BLOCK_CHECKSUM reads the next paragraph or reports the sum. -/
def Obligations.ChecksumAddsCorrectedData : Prop :=
  (∀ (d : Device) (c : ChecksumLoop) (r : FlashResult),
    (r.ok = false → d.checksumTurn c r = (d, .finished false c.sum)) ∧
    (r.ok = true → r.bytes.length = 528 →
      let v := eccVerify (fun i => r.bytes.getD i 0)
        (r.bytes.getD 519 0 ++ r.bytes.getD 518 0 ++ r.bytes.getD 517 0 ++ r.bytes.getD 516 0)
      let total := (List.range 512).foldl (fun acc i => acc + (v.data i).setWidth 32) c.sum
      ∃ e : Device, e = { d with buf := e.buf } ∧ (∀ i < 512, e.bufByte d.sel i = v.data i) ∧
        (∀ i < 16, e.bufByte d.sel (512 + i) = r.bytes.getD (512 + i) 0) ∧
        (∀ a, ¬ (bufKey d.sel 0 ≤ a ∧ a < bufKey d.sel 528) →
          Memory.read .buffers e.buf a = Memory.read .buffers d.buf a) ∧
        d.checksumTurn c r = (e,
          if v.res = .uncorrectable then .finished false c.sum
          else if c.q < 3 then .more ⟨c.b, c.pg, c.q + 1, total⟩
          else if c.pg < 63 then .more ⟨c.b, c.pg + 1, 0, total⟩
          else .finished true total))) ∧
  ∀ (s : State) (c : ChecksumLoop) (r : FlashResult),
    s.dev.seq = .checksumming c → s.dev.flashResult = some r →
    (r.ok = false → act .seq s = .next { s with dev := { s.dev with
      flashResult := none, chksum := c.sum, chkOk := false, seq := .idle } }) ∧
    (r.ok = true → r.bytes.length = 528 →
      let v := eccVerify (fun i => r.bytes.getD i 0)
        (r.bytes.getD 519 0 ++ r.bytes.getD 518 0 ++ r.bytes.getD 517 0 ++ r.bytes.getD 516 0)
      let total := (List.range 512).foldl (fun acc i => acc + (v.data i).setWidth 32) c.sum
      ∃ t, act .seq s = .next t ∧ (∀ i < 512, t.dev.bufByte s.dev.sel i = v.data i) ∧
        (∀ i < 528, t.dev.bufByte (!s.dev.sel) i = s.dev.bufByte (!s.dev.sel) i) ∧
        (v.res = .uncorrectable → t = { s with dev := { s.dev with
          buf := t.dev.buf, flashResult := none, chksum := c.sum, chkOk := false, seq := .idle } }) ∧
        (v.res ≠ .uncorrectable → c.q = 3 → c.pg = 63 → t = { s with dev := { s.dev with
          buf := t.dev.buf, flashResult := none, chksum := total, chkOk := true, seq := .idle } }) ∧
        (v.res ≠ .uncorrectable → c.q < 3 → t = { s with dev := { s.dev with
          buf := t.dev.buf, flashReq := some (.read c.b c.pg (c.q + 1)), flashResult := none,
          seq := .checksumming ⟨c.b, c.pg, c.q + 1, total⟩ } }) ∧
        (v.res ≠ .uncorrectable → c.q = 3 → c.pg < 63 → t = { s with dev := { s.dev with
          buf := t.dev.buf, flashReq := some (.read c.b (c.pg + 1) 0), flashResult := none,
          seq := .checksumming ⟨c.b, c.pg + 1, 0, total⟩ } }))

/-- 43_twin_replication.md R271, R272 (its example): BLOCK_CHECKSUM of an erased block, each of its 256 reads answered,
ends with CHKSUM = 0x01FE0000 and CHK_OK = 1, the flash and the errors as they were. -/
def Obligations.ErasedBlockChecksum : Prop :=
  ∀ (s : State) (b : Half), s.dev.seq = .idle → 1 ≤ b.toNat → b.toNat < s.dev.params.blockCount →
    (∀ i < blockBytes, Memory.read .flash s.dev.flash (flashKey b.toNat 0 0 + i) = 0xFF) →
    ∃ t, actAll (.host (.write32 0x000 (0x22000000 ||| b.setWidth 32)) ::
        (List.replicate 256 [Action.flash true [], Action.seq]).flatten) s = .next t ∧
      t = { s with dev := { s.dev with
        buf := t.dev.buf, curBlock := b, chksum := 0x01FE0000, chkOk := true, seq := .idle,
        flashReq := none, flashResult := none } } ∧
      ∀ i < 528, t.dev.bufByte s.dev.sel i = 0xFF

/-! ### The slave frame handler (43_twin_replication.md) -/

/-- 43_twin_replication.md R277, R282, R283: a slave answers a PING with ACK and changes nothing else; it starts a frame on
each of its three tokens. An unknown first byte is discarded alone; a frame with an invalid address is read to its full length
and then discarded. Each of the two sets ERR.PROTOCOL, gets no reply and makes no request. A payload byte is kept, and a data
byte of BEGIN_DATA goes to its place in the nand buffer; no other buffer byte changes. -/
def Obligations.SlaveAnswersPingAndDiscardsTheUnknown : Prop :=
  (∀ (s : State) (rest : List Byte), s.dev.conn = .twinnedSlave → s.dev.seq = .idle → s.dev.rxq = 0x50 :: rest →
    act .seq s = .next { s with dev := { s.dev with rxq := rest, txq := s.dev.txq ++ [.lit 0x41] } }) ∧
  (∀ (s : State) (x : Byte) (rest : List Byte), s.dev.conn = .twinnedSlave → s.dev.seq = .idle → s.dev.rxq = x :: rest →
    x = 0x44 ∨ x = 0x43 ∨ x = 0x4D →
    act .seq s = .next { s with dev := { s.dev with rxq := rest, seq := .slaveFrame ⟨x, [], .payload⟩ } }) ∧
  (∀ (s : State) (x : Byte) (rest : List Byte), s.dev.conn = .twinnedSlave → s.dev.seq = .idle → s.dev.rxq = x :: rest →
    x ≠ 0x44 → x ≠ 0x43 → x ≠ 0x4D → x ≠ 0x50 →
    act .seq s = .next { s with dev := { s.dev with rxq := rest, err := s.dev.err ||| 0x100 } }) ∧
  (∀ (s : State) (token x : Byte) (payload rest : List Byte),
    s.dev.seq = .slaveFrame ⟨token, payload, .payload⟩ → s.dev.rxq = x :: rest →
    (token = 0x44 ∧ payload.length = 515 ∨ (token = 0x43 ∨ token = 0x4D) ∧ payload.length = 1) →
    (let b := ((payload ++ [x]).getD 1 0 ++ (payload ++ [x]).getD 0 0).toNat
     b = 0 ∨ s.dev.params.blockCount ≤ b ∨
       (token = 0x44 ∧ (63 < (payload.getD 2 0).toNat ∨ 3 < (payload.getD 3 0).toNat))) →
    ∃ t, act .seq s = .next t ∧
      t = { s with dev := { s.dev with buf := t.dev.buf, rxq := rest, err := s.dev.err ||| 0x100, seq := .idle } } ∧
      ∀ a, Memory.read .buffers t.dev.buf a =
        if token = 0x44 ∧ a = bufKey s.dev.sel 511 then x else Memory.read .buffers s.dev.buf a) ∧
  (∀ (s : State) (token x : Byte) (payload rest : List Byte),
    s.dev.seq = .slaveFrame ⟨token, payload, .payload⟩ → s.dev.rxq = x :: rest →
    (token = 0x44 ∧ payload.length < 515 ∨ (token = 0x43 ∨ token = 0x4D) ∧ payload.length < 1) →
    ∃ t, act .seq s = .next t ∧ t = { s with dev := { s.dev with
      buf := t.dev.buf, rxq := rest, seq := .slaveFrame ⟨token, payload ++ [x], .payload⟩ } } ∧
      ∀ a, Memory.read .buffers t.dev.buf a =
        if token = 0x44 ∧ 4 ≤ payload.length ∧ a = bufKey s.dev.sel (payload.length - 4) then x
        else Memory.read .buffers s.dev.buf a)

/-- 43_twin_replication.md R279 to R281: a slave's frame with a valid address, from its last byte on: REQ_CHKSM reads the
block's first paragraph, MARK_BLOCK marks the block, BEGIN_DATA asks for random_data_started at the first paragraph of a block
and programs at any other. Then what the slave does on each answer of its own collaborators: the first paragraph of a block
marks the start and erases; the flash results are not acted on; the checksum goes on (its turns are those of
ChecksumAddsCorrectedData); DATA_ACK, MARK_ACK and the checksum's reply end their frames. Of the buffers only the spare part
of the programmed paragraph, and the byte that came, change. -/
def Obligations.SlaveRepliesWhateverItsFlashReports : Prop :=
  (∀ (s : State) (token x : Byte) (payload rest : List Byte),
    s.dev.seq = .slaveFrame ⟨token, payload, .payload⟩ → s.dev.rxq = x :: rest →
    let f (p : SlavePoint) : SlaveFrame := ⟨token, payload ++ [x], p⟩
    let b := ((payload ++ [x]).getD 1 0 ++ (payload ++ [x]).getD 0 0).toNat
    let pg := (payload.getD 2 0).toNat
    let q := (payload.getD 3 0).toNat
    1 ≤ b → b < s.dev.params.blockCount →
    (token = 0x43 → payload.length = 1 → act .seq s = .next { s with dev := { s.dev with
      rxq := rest, flashReq := some (.read b 0 0), flashResult := none,
      seq := .slaveFrame (f (.checksum ⟨b, 0, 0, 0⟩)) } }) ∧
    (token = 0x4D → payload.length = 1 → act .seq s = .next { s with dev := { s.dev with
      rxq := rest, bookReq := some (.markBad b), bookResult := none, seq := .slaveFrame (f .marking) } }) ∧
    (token = 0x44 → payload.length = 515 → pg = 0 → q = 0 → ∃ t, act .seq s = .next t ∧
      t = { s with dev := { s.dev with
        buf := t.dev.buf, rxq := rest, bookReq := some (.flagIsSet .randomDataStarted), bookResult := none,
        seq := .slaveFrame (f .checkStarted) } } ∧
      ∀ a, Memory.read .buffers t.dev.buf a =
        if a = bufKey s.dev.sel 511 then x else Memory.read .buffers s.dev.buf a) ∧
    (token = 0x44 → payload.length = 515 → pg ≤ 63 → q ≤ 3 → pg ≠ 0 ∨ q ≠ 0 → ∃ t, act .seq s = .next t ∧
      (let data := (List.range 512).map (fun i => if i = 511 then x else s.dev.bufByte s.dev.sel i)
       let spare := spareImage (eccGen (fun i => data.getD i 0))
       t = { s with dev := { s.dev with
        buf := t.dev.buf, rxq := rest, flashReq := some (.program b pg q (data ++ spare)), flashResult := none,
        seq := .slaveFrame (f .programming) } } ∧
       (∀ i < 16, t.dev.bufByte s.dev.sel (512 + i) = spare.getD i 0) ∧
       ∀ a, ¬ (bufKey s.dev.sel 512 ≤ a ∧ a < bufKey s.dev.sel 528) → Memory.read .buffers t.dev.buf a =
         if a = bufKey s.dev.sel 511 then x else Memory.read .buffers s.dev.buf a))) ∧
  ∀ (s : State) (token : Byte) (payload : List Byte),
    let f (p : SlavePoint) : SlaveFrame := ⟨token, payload, p⟩
    let b := (payload.getD 1 0 ++ payload.getD 0 0).toNat
    (s.dev.seq = .slaveFrame (f .checkStarted) →
      (s.dev.bookResult = some (.flag true) → act .seq s = .next { s with dev := { s.dev with
        bookResult := none, flashReq := some (.erase b), flashResult := none, seq := .slaveFrame (f .erasing) } }) ∧
      (s.dev.bookResult = some (.flag false) → act .seq s = .next { s with dev := { s.dev with
        bookReq := some (.setFlag .randomDataStarted), bookResult := none, seq := .slaveFrame (f .setStarted) } })) ∧
    (s.dev.seq = .slaveFrame (f .setStarted) → s.dev.bookResult = some .done →
      act .seq s = .next { s with dev := { s.dev with
        bookResult := none, flashReq := some (.erase b), flashResult := none, seq := .slaveFrame (f .erasing) } }) ∧
    (∀ r, s.dev.seq = .slaveFrame (f .erasing) → s.dev.flashResult = some r →
      ∃ t, act .seq s = .next t ∧ t = { s with dev := { s.dev with
        buf := t.dev.buf, flashResult := none, seq := .slaveFrame (f .programming),
        flashReq := some (.program b (payload.getD 2 0).toNat (payload.getD 3 0).toNat
          ((List.range 512).map (fun i => s.dev.bufByte s.dev.sel i) ++
            spareImage (eccGen (fun i => s.dev.bufByte s.dev.sel i)))) } } ∧
      (∀ i < 16, t.dev.bufByte s.dev.sel (512 + i) =
        (spareImage (eccGen (fun i => s.dev.bufByte s.dev.sel i))).getD i 0) ∧
      ∀ a, ¬ (bufKey s.dev.sel 512 ≤ a ∧ a < bufKey s.dev.sel 528) →
        Memory.read .buffers t.dev.buf a = Memory.read .buffers s.dev.buf a) ∧
    (∀ r, s.dev.seq = .slaveFrame (f .programming) → s.dev.flashResult = some r →
      act .seq s = .next { s with dev := { s.dev with
        flashResult := none, txq := s.dev.txq ++ [.lit 0x64], seq := .idle } }) ∧
    (∀ c r d c1, s.dev.seq = .slaveFrame (f (.checksum c)) → s.dev.flashResult = some r →
      { s.dev with flashResult := none }.checksumTurn c r = (d, .more c1) →
      act .seq s = .next { s with dev := { d with
        flashReq := some (.read c1.b c1.pg c1.q), flashResult := none, seq := .slaveFrame (f (.checksum c1)) } }) ∧
    (∀ c r d ok total, s.dev.seq = .slaveFrame (f (.checksum c)) → s.dev.flashResult = some r →
      { s.dev with flashResult := none }.checksumTurn c r = (d, .finished ok total) →
      act .seq s = .next { s with dev := { d with
        seq := .idle,
        txq := d.txq ++ if ok then [.lit 0x63, .lit (total.extractLsb' 0 8), .lit (total.extractLsb' 8 8),
          .lit (total.extractLsb' 16 8), .lit (total.extractLsb' 24 8)] else [.lit 0x78] } }) ∧
    (s.dev.seq = .slaveFrame (f .marking) → s.dev.bookResult = some .done →
      act .seq s = .next { s with dev := { s.dev with
        bookResult := none, txq := s.dev.txq ++ [.lit 0x6D], seq := .idle } })

/-- 43_twin_replication.md R279, R266: a whole BEGIN_DATA frame that arrives at an idle slave, for a paragraph that is not
the first of its block: its data and the spare image of its code are programmed there, no other flash byte changes, and
DATA_ACK is sent. -/
def Obligations.SlaveProgramsTheFrame : Prop :=
  ∀ (s : State) (lo hi pg q : Byte) (data more : List Byte) (content : List Byte),
    s.dev.conn = .twinnedSlave → s.dev.seq = .idle → s.dev.rxq = [] → 1 ≤ s.dev.params.rxFifoDepth →
    s.lineIn = [0x44, lo, hi, pg, q] ++ data ++ more → data.length = 512 →
    1 ≤ (hi ++ lo).toNat → (hi ++ lo).toNat < s.dev.params.blockCount → pg.toNat ≤ 63 → q.toNat ≤ 3 →
    (pg ≠ 0 ∨ q ≠ 0) →
    let para := data ++ spareImage (eccGen (fun i => data.getD i 0))
    let key := flashKey (hi ++ lo).toNat pg.toNat q.toNat
    ∃ t, actAll ((List.replicate 517 [Action.uartRx, Action.seq]).flatten ++ [.flash true content, .seq]) s = .next t ∧
      t = { s with
        lineIn := more
        dev := { s.dev with
          buf := t.dev.buf, flash := t.dev.flash, flashReq := none, flashResult := none, seq := .idle,
          txq := s.dev.txq ++ [.lit 0x64] } } ∧
      (∀ i < 528, t.dev.bufByte s.dev.sel i = para.getD i 0) ∧
      (∀ i < 528, Memory.read .flash t.dev.flash (key + i) =
        Memory.read .flash s.dev.flash (key + i) &&& para.getD i 0) ∧
      ∀ a, ¬ (key ≤ a ∧ a < key + 528) → Memory.read .flash t.dev.flash a = Memory.read .flash s.dev.flash a

/-- 43_twin_replication.md R284: no step of a slave other than its HOST's and a RESET writes REPL, CUR_BLOCK or
random_data_finished, asks for random_data_finished or a block status, or queues a byte other than as a reply. -/
def Obligations.SlaveNeverInitiates : Prop :=
  ∀ (a : Action) (s : State), s.dev.SeqInv → s.dev.NegInv → s.dev.conn = .twinnedSlave →
    (∀ acc, a ≠ .host acc) → (∀ r, a ≠ .reset r) →
    ∃ t, act a s = .next t ∧ t.dev.repl = s.dev.repl ∧ t.dev.curBlock = s.dev.curBlock ∧
      t.dev.flags.randomDataFinished = s.dev.flags.randomDataFinished ∧
      (∀ r, t.dev.bookReq = some r → r ≠ .flagIsSet .randomDataFinished ∧ r ≠ .setFlag .randomDataFinished ∧
        ∀ b, r ≠ .blockStatus b) ∧
      (s.dev.txq.length < t.dev.txq.length →
        a = .seq ∧ (s.dev.seq.phase = .slaveFrame ∨ s.dev.rxq.head? = some 0x50))

/-! ### Ports (20_memory.md) -/

/-- 20_memory.md R92: what the completion of each flash request does. The model's choices: that a failed request changes
nothing outside the block or paragraph it names (log entry 12), that a FLASH step with no request changes nothing (log entry
1), and that the answer waits in `flashResult` (log entry 10). -/
def Obligations.FlashCompletesItsRequest : Prop :=
  ∀ (s : State) (ok : Bool) (content : List Byte),
    (s.dev.flashReq = none → act (.flash ok content) s = .next s) ∧
    (∀ b, s.dev.flashReq = some (.erase b) → ∃ t, act (.flash ok content) s = .next t ∧
      t = { s with dev := { s.dev with flash := t.dev.flash, flashReq := none, flashResult := some ⟨ok, []⟩ } } ∧
      (ok = true → ∀ i < blockBytes, Memory.read .flash t.dev.flash (flashKey b 0 0 + i) = 0xFF) ∧
      ∀ a, ¬ (flashKey b 0 0 ≤ a ∧ a < flashKey (b + 1) 0 0) →
        Memory.read .flash t.dev.flash a = Memory.read .flash s.dev.flash a) ∧
    (∀ b pg q bytes, s.dev.flashReq = some (.program b pg q bytes) → bytes.length = 528 →
      ∃ t, act (.flash ok content) s = .next t ∧
      t = { s with dev := { s.dev with flash := t.dev.flash, flashReq := none, flashResult := some ⟨ok, []⟩ } } ∧
      (ok = true → ∀ i < 528, Memory.read .flash t.dev.flash (flashKey b pg q + i) =
        Memory.read .flash s.dev.flash (flashKey b pg q + i) &&& bytes.getD i 0) ∧
      ∀ a, ¬ (flashKey b pg q ≤ a ∧ a < flashKey b pg q + 528) →
        Memory.read .flash t.dev.flash a = Memory.read .flash s.dev.flash a) ∧
    (∀ b pg q, s.dev.flashReq = some (.read b pg q) → ∃ bytes,
      act (.flash ok content) s = .next { s with dev := { s.dev with
        flashReq := none, flashResult := some ⟨ok, bytes⟩ } } ∧
      (ok = true → bytes.length = 528 ∧
        ∀ i < 528, bytes.getD i 0 = Memory.read .flash s.dev.flash (flashKey b pg q + i)))

/-- 20_memory.md R96: the four bookkeeping requests; and under every step of any agent of either device, RESET included, a
Bad block stays Bad and a set flag stays set. -/
def Obligations.BookkeepingOnlyGoesForward : Prop :=
  (∀ (s : State) (r : BookRequest), s.dev.bookReq = some r → ∃ t, act .book s = .next t ∧
    t = { s with dev := { s.dev with
      bookReq := none, bookResult := t.dev.bookResult, usage := t.dev.usage, flags := t.dev.flags } } ∧
    (∀ b, r = .blockStatus b → t.dev.bookResult = some (.status (s.dev.blockStatus b)) ∧
      t.dev.usage = s.dev.usage ∧ t.dev.flags = s.dev.flags) ∧
    (∀ b, r = .markBad b → t.dev.bookResult = some .done ∧ t.dev.flags = s.dev.flags ∧
      ∀ c, t.dev.blockStatus c = if c = b then .bad else s.dev.blockStatus c) ∧
    (∀ f, r = .flagIsSet f → t.dev.bookResult = some (.flag (s.dev.flags.get f)) ∧
      t.dev.usage = s.dev.usage ∧ t.dev.flags = s.dev.flags) ∧
    (∀ f, r = .setFlag f → t.dev.bookResult = some .done ∧ t.dev.usage = s.dev.usage ∧
      ∀ g, t.dev.flags.get g = if g = f then true else s.dev.flags.get g)) ∧
  (∀ s : State, ∃ t, step s = .next t ∧
    (∀ b, s.dev.blockStatus b = .bad → t.dev.blockStatus b = .bad) ∧
    (∀ f, s.dev.flags.get f = true → t.dev.flags.get f = true) ∧
    ∀ d, s.twin = some d → ∃ e, t.twin = some e ∧
      (∀ b, d.blockStatus b = .bad → e.blockStatus b = .bad) ∧ (∀ f, d.flags.get f = true → e.flags.get f = true))

/-- 20_memory.md R89 to R91, over the model's link of two lists (log entry 14): a byte arrives in RXQ or is lost with RX_OVERFLOW; the head of TXQ goes on the link, a
reference with the value its buffer byte has now; the twin takes the bytes in the order sent; with no twin they are lost. That UART_RX with nothing in flight (log entry 14) and
UART_TX with nothing queued (log entry 1) change nothing is the model's choice. -/
def Obligations.LinkCarriesBytesInOrder : Prop :=
  ∀ s : State,
    (∀ x rest, s.lineIn = x :: rest →
      act .uartRx s = if s.dev.rxq.length < s.dev.params.rxFifoDepth
        then .next { s with lineIn := rest, dev := { s.dev with rxq := s.dev.rxq ++ [x] } }
        else .next { s with lineIn := rest, dev := { s.dev with err := s.dev.err ||| 0x200 } }) ∧
    (s.lineIn = [] → act .uartRx s = .next s) ∧
    (s.dev.txq = [] → act .uartTx s = .next s) ∧
    (∀ e rest, s.dev.txq = e :: rest →
      let x := match e with
        | .lit x => x
        | .ref p i => s.dev.bufByte p i
      act .uartTx s = .next { s with
        dev := { s.dev with txq := rest }
        lineOut := if s.twin = none then s.lineOut else s.lineOut ++ [x] }) ∧
    (∀ d x rest, s.twin = some d → s.lineOut = x :: rest → d.rxq.length < d.params.rxFifoDepth →
      perform ⟨.twin, .uartRx⟩ s =
        .next { s with lineOut := rest, twin := some { d with rxq := d.rxq ++ [x] } })

/-! ### Register access (44_register_access.md) -/

/-- 44_register_access.md R311, R317, R321: every legal read returns its row's value and changes nothing else; every other
read returns 0 and sets ERR.ACCESS. -/
def Obligations.ReadsReturnTheirRow : Prop :=
  ∀ s : State,
    hostStep (.read 0x004 .word) s = .next (s.readBack s.dev.statusWord) ∧
    hostStep (.read 0x008 .word) s = .next (s.readBack s.dev.eccCode) ∧
    hostStep (.read 0x00C .word) s = .next (s.readBack (s.dev.eccSyn.setWidth 32)) ∧
    hostStep (.read 0x010 .word) s = .next (s.readBack (s.dev.err.setWidth 32)) ∧
    hostStep (.read 0x014 .word) s = .next (s.readBack s.dev.chksum) ∧
    hostStep (.read 0x018 .word) s =
      .next (s.readBack ((0 : BitVec 16) ++ BitVec.ofNat 8 s.dev.negRounds ++ BitVec.ofNat 8 s.dev.negD)) ∧
    (∀ k < 4, hostStep (.read (BitVec.ofNat 12 (0x020 + 4 * k)) .word) s =
      .next (s.readBack (s.dev.accWord (2 * k + 1) ++ s.dev.accWord (2 * k)))) ∧
    (∀ i < 528, hostStep (.read (BitVec.ofNat 12 (0x400 + i)) .byte) s =
        .next (s.readBack ((s.dev.bufByte s.dev.sel i).setWidth 32)) ∧
      hostStep (.read (BitVec.ofNat 12 (0x800 + i)) .byte) s =
        .next (s.readBack ((s.dev.bufByte (!s.dev.sel) i).setWidth 32))) ∧
    (∀ (a : Offset) (n : Width), readable a.toNat n = false →
      hostStep (.read a n) s =
        .next { s with dev := { s.dev with err := s.dev.err ||| 0x080, readData := 0 } })

/-- 44_register_access.md R314, R316, R318, R319: the writes other than CMD, and that every illegal write sets ERR.ACCESS
and changes nothing else. -/
def Obligations.WritesReachOnlyTheirRow : Prop :=
  ∀ s : State,
    (∀ v, hostStep (.write32 0x008 v) s = .next { s with dev := { s.dev with eccCode := v } }) ∧
    (∀ v, hostStep (.write32 0x010 v) s =
      .next { s with dev := { s.dev with err := s.dev.err &&& ~~~(v.setWidth 10) } }) ∧
    (∀ i v, i < 528 → ∃ t, hostStep (.write8 (BitVec.ofNat 12 (0x400 + i)) v) s = .next t ∧
      if s.dev.seq = .idle then
        t = { s with dev := { s.dev with buf := t.dev.buf } } ∧
        ∀ a, Memory.read .buffers t.dev.buf a = if a = bufKey s.dev.sel i then v else Memory.read .buffers s.dev.buf a
      else t = s.withErr 0x002) ∧
    (∀ i v, i < 528 → ∃ t, hostStep (.write8 (BitVec.ofNat 12 (0x800 + i)) v) s = .next t ∧
      if s.dev.seq = .idle then
        if s.dev.streamActive = true then t = s.withErr 0x040
        else t = { s with dev := { s.dev with buf := t.dev.buf } } ∧
          ∀ a, Memory.read .buffers t.dev.buf a =
            if a = bufKey (!s.dev.sel) i then v else Memory.read .buffers s.dev.buf a
      else t = s.withErr 0x002) ∧
    (∀ (a : Offset) (v : Byte), inWindow a.toNat = false → hostStep (.write8 a v) s = .next (s.withErr 0x080)) ∧
    (∀ (a : Offset) (v : Word), a ≠ 0x000 → a ≠ 0x008 → a ≠ 0x010 →
      hostStep (.write32 a v) s = .next (s.withErr 0x080))

/-- 44_register_access.md R313, 10_state.md R32, R47 to R49: the fields of STATUS. -/
def Obligations.StatusWordFields : Prop :=
  ∀ d : Device,
    let w := d.statusWord
    w.getLsbD 0 = decide (d.seq ≠ .idle) ∧ w.getLsbD 1 = d.rngArmed ∧ w.getLsbD 2 = d.rngDone ∧
    w.getLsbD 3 = d.streamActive ∧ w.getLsbD 4 = d.sel ∧
    (w.extractLsb' 5 3).toNat = (match d.conn with
      | .indeterminate => 0 | .single => 1 | .twinnedMaster => 2 | .twinnedSlave => 3 | .collision => 4) ∧
    (w.extractLsb' 8 3).toNat = (match d.repl with
      | .idle => 0 | .running => 1 | .finished => 2 | .aborted => 3 | .skipped => 4) ∧
    (w.extractLsb' 11 3).toNat = (match d.eccRes with
      | .none => 0 | .noError => 1 | .codeError => 2 | .corrected => 3 | .uncorrectable => 4) ∧
    w.getLsbD 14 = d.chkOk ∧ w.getLsbD 15 = d.usbHost ∧ w.extractLsb' 16 16 = d.curBlock

/-! ### The whole machine -/

/-- 10_state.md R36, R37, R39, R42, R49, R53, 40_ecc.md R168: each of these registers changes only in a step of the
agent the spec names, and never by another; an error bit is cleared only by a HOST write of a 1 to it or by RESET (R340). That
nothing but a BOOK or RESET step with a request outstanding changes a block status or a flag, and that nothing but FLASH or
RESET changes the flash, is the model's choice: other software of the device may change them (log entry 7). -/
def Obligations.RegistersChangeOnlyByTheirAgent : Prop :=
  ∀ (a : Action) (s : State), ∃ t, act a s = .next t ∧ t.dev.params = s.dev.params ∧
    (t.dev.acc ≠ s.dev.acc → (∃ x, a = .adc x ∧ s.dev.rngArmed = true) ∨ ∃ r, a = .reset r) ∧
    (t.dev.eccSyn ≠ s.dev.eccSyn ∨ t.dev.eccRes ≠ s.dev.eccRes →
      (∃ r, a = .host (.write32 0x000 (encode (.eccVerify r)))) ∨ ∃ r, a = .reset r) ∧
    (t.dev.eccCode ≠ s.dev.eccCode →
      (∃ r, a = .host (.write32 0x000 (encode (.eccGen r)))) ∨ (∃ v, a = .host (.write32 0x008 v)) ∨
        ∃ r, a = .reset r) ∧
    (t.dev.chksum ≠ s.dev.chksum ∨ t.dev.chkOk ≠ s.dev.chkOk →
      (a = .seq ∧ s.dev.seq.phase = .checksumming) ∨ ∃ r, a = .reset r) ∧
    (t.dev.flash ≠ s.dev.flash → (∃ ok c, a = .flash ok c ∧ s.dev.flashReq ≠ none) ∨
      ∃ r, a = .reset r ∧ s.dev.flashReq ≠ none) ∧
    (t.dev.usage ≠ s.dev.usage ∨ t.dev.flags ≠ s.dev.flags → s.dev.bookReq ≠ none ∧ (a = .book ∨ ∃ r, a = .reset r)) ∧
    (t.dev.usbHost ≠ s.dev.usbHost → ∃ l, a = .usbHost l) ∧
    (∀ i, s.dev.err.getLsbD i = true → t.dev.err.getLsbD i = false →
      (∃ v : Word, a = .host (.write32 0x010 v) ∧ v.getLsbD i = true) ∨ ∃ r, a = .reset r)

/-- 70_reset_and_hazards.md R370 to R373: a RESET step gives every element of the block's state its value of 10_state.md
R60, whatever the block was doing, keeps the pin, the link and the twin, and can leave any buffer contents. An outstanding
program or erase can leave any content in the paragraph or block it names, and leaves every other flash byte; an outstanding
MarkBad or SetFlag takes effect or does not; every other request, or none, leaves the collaborators' state as it was. That the
effect is complete at the RESET step (log entry 13) and that a HOST read's answer is kept (log entry 9) are the model's
choices. -/
def Obligations.ResetGivesTheResetState : Prop :=
  (∀ (s : State) (draw : ResetDraw), ∃ t, act (.reset draw) s = .next t ∧
    t = { s with dev := {
      params := s.dev.params, usbHost := s.dev.usbHost, readData := s.dev.readData, seq := .idle,
      flashReq := none, flashResult := none, bookReq := none, bookResult := none,
      eccCode := 0, eccSyn := 0, err := 0, chksum := 0, acc := Vector.replicate 8 0,
      rngArmed := false, rngDone := false, scount := 0, sel := false, buf := t.dev.buf,
      streamActive := false, soff := 0, srem := 0, conn := .indeterminate, repl := .idle, curBlock := 0,
      eccRes := .none, chkOk := false, negT := 0, negD := 0, negForce := false, negPrio := false, negRounds := 0,
      rxq := [], txq := [], flash := t.dev.flash, usage := t.dev.usage, flags := t.dev.flags } } ∧
    (match s.dev.flashReq with
      | some (.erase b) => ∀ a, ¬ (flashKey b 0 0 ≤ a ∧ a < flashKey b 0 0 + blockBytes) →
        Memory.read .flash t.dev.flash a = Memory.read .flash s.dev.flash a
      | some (.program b pg q _) => ∀ a, ¬ (flashKey b pg q ≤ a ∧ a < flashKey b pg q + 528) →
        Memory.read .flash t.dev.flash a = Memory.read .flash s.dev.flash a
      | some (.read _ _ _) => t.dev.flash = s.dev.flash
      | none => t.dev.flash = s.dev.flash) ∧
    (match s.dev.bookReq with
      | some (.markBad b) => t.dev.flags = s.dev.flags ∧
        (t.dev.usage = s.dev.usage ∨ ∀ c, t.dev.blockStatus c = if c = b then .bad else s.dev.blockStatus c)
      | some (.setFlag f) => t.dev.usage = s.dev.usage ∧
        (t.dev.flags = s.dev.flags ∨ ∀ g, t.dev.flags.get g = if g = f then true else s.dev.flags.get g)
      | some (.blockStatus _) => t.dev.usage = s.dev.usage ∧ t.dev.flags = s.dev.flags
      | some (.flagIsSet _) => t.dev.usage = s.dev.usage ∧ t.dev.flags = s.dev.flags
      | none => t.dev.usage = s.dev.usage ∧ t.dev.flags = s.dev.flags)) ∧
  (∀ (s : State) (f : Bool → Nat → Byte) (g : Nat → Byte) (took : Bool), ∃ draw t, act (.reset draw) s = .next t ∧
    (∀ p, ∀ i < 528, t.dev.bufByte p i = f p i) ∧
    (match s.dev.flashReq with
      | some (.erase b) => ∀ i < blockBytes, Memory.read .flash t.dev.flash (flashKey b 0 0 + i) = g i
      | some (.program b pg q _) => ∀ i < 528, Memory.read .flash t.dev.flash (flashKey b pg q + i) = g i
      | some (.read _ _ _) => True
      | none => True) ∧
    (match s.dev.bookReq with
      | some (.markBad b) => t.dev.blockStatus b = if took then .bad else s.dev.blockStatus b
      | some (.setFlag h) => t.dev.flags.get h = (took || s.dev.flags.get h)
      | some (.blockStatus _) => True
      | some (.flagIsSet _) => True
      | none => True))

/-! ### Invariants that every step keeps -/

/-- 20_memory.md R80: the three lists of each device stay in canonical form under every step. -/
def Obligations.StepKeepsTheMemories : Prop :=
  ∀ s t : State, s.each Device.MemInv → step s = .next t → t.each Device.MemInv

/-- 10_state.md R43, R46, 41_rng.md R191, R202: STREAM_ACTIVE is set exactly while bytes remain, an active stream keeps the
sampler armed, its bytes fit the buffer, and RNG_DONE and RNG_ARMED are never both set, under every step. -/
def Obligations.StepKeepsTheStream : Prop :=
  ∀ s t : State, s.each Device.StreamInv → step s = .next t → t.each Device.StreamInv

/-- 10_state.md R50, 42_twin_negotiation.md R231, R233, R242: under every step NEG_T, NEG_D and NEG_ROUNDS stay in range, no
stream runs during an election, CONN is Indeterminate or Collision during one, CONN is Collision only during one, and an
election that awaits its sample has the sampler armed or done. -/
def Obligations.StepKeepsTheElection : Prop :=
  ∀ s t : State, s.each Device.NegInv → step s = .next t → t.each Device.NegInv

/-- 10_state.md R33, R48, R55, 20_memory.md R82, R94: a collaborator request is outstanding only at its own await, one at a
time, for an address outside block 0; REPL reads Running exactly during a run; RXQ keeps its bound: under every step. -/
def Obligations.StepKeepsTheSequencer : Prop :=
  ∀ s t : State, s.each Device.SeqInv → step s = .next t → t.each Device.SeqInv

/-- 43_twin_replication.md R266: under every step, every paragraph the block asks to program is 512 data bytes followed by
the spare image of their code. -/
def Obligations.StepKeepsProgramsCoded : Prop :=
  ∀ s t : State, s.each Device.CodedProgram → step s = .next t → t.each Device.CodedProgram

/-- 43_twin_replication.md R271: under every step, no checksum wraps: a sum in progress is at most 255 for each data byte
added, and CHKSUM is at most 0x01FE0000. -/
def Obligations.StepKeepsSumsBounded : Prop :=
  ∀ s t : State, s.each Device.SumInv → step s = .next t → t.each Device.SumInv

/-- 20_memory.md R82: the block's own erases and programs, completed, failed or abandoned by a RESET, never reach block 0: no
step changes a byte of block 0 of either device's flash. The model's choices: a failed request harms only what it names (log
entry 12), so does one abandoned by a RESET (log entry 13), and the flags and the usage map are kept apart from the flash,
so the collaborator's own writes of block 0 for SetFlag and MarkBad (20_memory.md R95, R97) are not shown in it (log entry
7). -/
def Obligations.BlockZeroIsNeverTouched : Prop :=
  ∀ s t : State, s.each Device.SeqInv → step s = .next t →
    (∀ a < blockBytes, Memory.read .flash t.dev.flash a = Memory.read .flash s.dev.flash a) ∧
    ∀ d, s.twin = some d → ∃ e, t.twin = some e ∧
      ∀ a < blockBytes, Memory.read .flash e.flash a = Memory.read .flash d.flash a

/-- The state after reset meets every invariant, alone and with a twin (the parameters and the contents of buffers, flash
and bookkeeping are the model's choice: log entries 3, 4, 6, 7, 8). -/
def Obligations.ResetMeetsTheInvariants : Prop :=
  (State.reset.each Device.MemInv ∧ State.reset.each Device.StreamInv ∧ State.reset.each Device.NegInv ∧
    State.reset.each Device.SeqInv ∧ State.reset.each Device.CodedProgram ∧ State.reset.each Device.SumInv) ∧
  (State.resetTwinned.each Device.MemInv ∧ State.resetTwinned.each Device.StreamInv ∧
    State.resetTwinned.each Device.NegInv ∧ State.resetTwinned.each Device.SeqInv ∧
    State.resetTwinned.each Device.CodedProgram ∧ State.resetTwinned.each Device.SumInv)
end

