-- ==== Sys2Proof/Laws/Memory.lean ====
section
/-! SUPPORT. What the sparse memories read after each operation, and that each operation keeps the canonical form. -/

namespace Sys2Proof.Machine

variable {β : Type}

theorem Sparse.read_put (dflt : β) (m : List (Nat × β)) (a b : Nat) (v : β) :
    Sparse.read dflt (Sparse.put m a v) b = if b = a then v else Sparse.read dflt m b := by
  induction m with
  | nil => simp [Sparse.put, Sparse.read]
  | cons c rest ih =>
    obtain ⟨k, w⟩ := c
    by_cases h1 : a < k
    · simp [Sparse.put, Sparse.read, h1]
    · by_cases h2 : a = k
      · subst h2
        by_cases hb : b = a <;> simp [Sparse.put, Sparse.read, hb]
      · by_cases hk : b = k
        · subst hk
          have : ¬ b = a := fun h => h2 h.symm
          simp [Sparse.put, Sparse.read, h1, h2, this]
        · simp [Sparse.put, Sparse.read, h1, h2, hk, ih]

theorem Sparse.read_clear (dflt : β) (m : List (Nat × β)) (lo n a : Nat) :
    Sparse.read dflt (Sparse.clear m lo n) a = if lo ≤ a ∧ a < lo + n then dflt else Sparse.read dflt m a := by
  induction m with
  | nil => simp [Sparse.clear, Sparse.read]
  | cons c rest ih =>
    obtain ⟨k, w⟩ := c
    have ih' : Sparse.read dflt (rest.filter (fun c => !(decide (lo ≤ c.1) && decide (c.1 < lo + n)))) a =
        if lo ≤ a ∧ a < lo + n then dflt else Sparse.read dflt rest a := ih
    by_cases hk : lo ≤ k ∧ k < lo + n
    · have : ((k, w) :: rest).filter (fun c => !(decide (lo ≤ c.1) && decide (c.1 < lo + n))) =
          rest.filter (fun c => !(decide (lo ≤ c.1) && decide (c.1 < lo + n))) := by
        simp [hk.1, hk.2]
      rw [Sparse.clear, this, ih']
      by_cases ha : lo ≤ a ∧ a < lo + n
      · simp [ha]
      · have hne : ¬ a = k := by rintro rfl; exact ha hk
        simp [ha, Sparse.read, hne]
    · have : ((k, w) :: rest).filter (fun c => !(decide (lo ≤ c.1) && decide (c.1 < lo + n))) =
          (k, w) :: rest.filter (fun c => !(decide (lo ≤ c.1) && decide (c.1 < lo + n))) := by
        rw [List.filter_cons_of_pos]; simp; omega
      rw [Sparse.clear, this]
      by_cases hak : a = k
      · subst hak; simp [Sparse.read, hk]
      · simpa only [Sparse.read, if_neg hak] using ih'

/-- Reading after a write: the written key reads as written, every other key as before. -/
theorem Sparse.read_write [DecidableEq β] (dflt : β) (m : List (Nat × β)) (a b : Nat) (v : β) :
    Sparse.read dflt (Sparse.write dflt m a v) b = if b = a then v else Sparse.read dflt m b := by
  unfold Sparse.write
  split
  · next h =>
    subst h
    rw [Sparse.read_clear]
    by_cases hb : b = a
    · subst hb; simp
    · have : ¬ (a ≤ b ∧ b < a + 1) := by omega
      rw [if_neg this, if_neg hb]
  · exact Sparse.read_put dflt m a b v

theorem Sparse.wfFrom_mono [DecidableEq β] (dflt : β) {lo lo' : Nat} (h : lo' ≤ lo) :
    ∀ {m : List (Nat × β)}, Sparse.wfFrom dflt lo m = true → Sparse.wfFrom dflt lo' m = true
  | [], _ => rfl
  | (k, v) :: rest, hm => by
    simp only [Sparse.wfFrom, Bool.and_eq_true, decide_eq_true_eq] at hm ⊢
    exact ⟨⟨le_trans h hm.1.1, hm.1.2⟩, hm.2⟩

theorem Sparse.wfFrom_put [DecidableEq β] (dflt : β) (a : Nat) (v : β) (hv : v ≠ dflt) :
    ∀ {m : List (Nat × β)} {lo : Nat}, lo ≤ a → Sparse.wfFrom dflt lo m = true →
      Sparse.wfFrom dflt lo (Sparse.put m a v) = true
  | [], lo, hlo, _ => by simp [Sparse.put, Sparse.wfFrom, hlo, hv]
  | (k, w) :: rest, lo, hlo, hm => by
    simp only [Sparse.wfFrom, Bool.and_eq_true, decide_eq_true_eq] at hm
    by_cases h1 : a < k
    · simp [Sparse.put, Sparse.wfFrom, h1, hlo, hv, hm]
    · by_cases h2 : a = k
      · subst h2
        simp [Sparse.put, Sparse.wfFrom, hlo, hv, hm]
      · simp [Sparse.put, Sparse.wfFrom, h1, h2, hm,
          Sparse.wfFrom_put dflt a v hv (m := rest) (lo := k + 1) (by omega) hm.2]

theorem Sparse.wfFrom_clear [DecidableEq β] (dflt : β) (a n : Nat) :
    ∀ {m : List (Nat × β)} {lo : Nat}, Sparse.wfFrom dflt lo m = true →
      Sparse.wfFrom dflt lo (Sparse.clear m a n) = true
  | [], _, _ => rfl
  | (k, w) :: rest, lo, hm => by
    have hm' := hm
    simp only [Sparse.wfFrom, Bool.and_eq_true, decide_eq_true_eq] at hm
    have ih := Sparse.wfFrom_clear dflt a n (m := rest) (lo := k + 1) hm.2
    unfold Sparse.clear at ih ⊢
    rw [List.filter_cons]
    split
    · simp only [Sparse.wfFrom, Bool.and_eq_true, decide_eq_true_eq]
      exact ⟨hm.1, ih⟩
    · exact Sparse.wfFrom_mono dflt (by omega) ih

/-- A write keeps the canonical form. -/
theorem Sparse.wf_write [DecidableEq β] (dflt : β) (m : List (Nat × β)) (a : Nat) (v : β)
    (h : Sparse.wf dflt m = true) : Sparse.wf dflt (Sparse.write dflt m a v) = true := by
  unfold Sparse.write
  split
  · exact Sparse.wfFrom_clear dflt a 1 h
  · next hv => exact Sparse.wfFrom_put dflt a v hv (Nat.zero_le a) h

/-- Clearing a range keeps the canonical form. -/
theorem Sparse.wf_clear [DecidableEq β] (dflt : β) (m : List (Nat × β)) (a n : Nat)
    (h : Sparse.wf dflt m = true) : Sparse.wf dflt (Sparse.clear m a n) = true :=
  Sparse.wfFrom_clear dflt a n h

theorem Memory.read_write (sp : Space) (m : List Host.Cell) (a b : Nat) (v : Byte) :
    Memory.read sp (Memory.write sp m a v) b = if b = a then v else Memory.read sp m b :=
  Sparse.read_write (unlistedByte sp) m a b v

@[simp] theorem Memory.read_write_same (sp : Space) (m : List Host.Cell) (a : Nat) (v : Byte) :
    Memory.read sp (Memory.write sp m a v) a = v := by simp [Memory.read_write]

theorem Memory.read_write_other (sp : Space) (m : List Host.Cell) {a b : Nat} (v : Byte) (h : b ≠ a) :
    Memory.read sp (Memory.write sp m a v) b = Memory.read sp m b := by simp [Memory.read_write, h]

/-- Reading after writing a list of bytes: the listed keys read the list, every other key as before. -/
theorem Memory.read_writeBytes (sp : Space) (bytes : List Byte) :
    ∀ (m : List Host.Cell) (base b : Nat), Memory.read sp (Memory.writeBytes sp m base bytes) b =
      if base ≤ b ∧ b < base + bytes.length then bytes.getD (b - base) 0 else Memory.read sp m b := by
  induction bytes with
  | nil =>
    intro m base b
    simp [Memory.writeBytes]
  | cons x xs ih =>
    intro m base b
    rw [Memory.writeBytes, ih]
    by_cases h : base + 1 ≤ b ∧ b < base + 1 + xs.length
    · have h2 : base ≤ b ∧ b < base + (x :: xs).length := by simp; omega
      have h3 : b - base = (b - (base + 1)) + 1 := by omega
      rw [if_pos h, if_pos h2, h3]; simp
    · rw [if_neg h, Memory.read_write]
      by_cases hb : b = base
      · subst hb; simp
      · have h2 : ¬ (base ≤ b ∧ b < base + (x :: xs).length) := by simp at h ⊢; omega
        rw [if_neg hb, if_neg h2]

/-- Reading after clearing a range of flash: erased bytes, every other key as before. -/
theorem Memory.read_clearBytes (sp : Space) (m : List Host.Cell) (base n b : Nat) :
    Memory.read sp (Memory.clearBytes m base n) b =
      if base ≤ b ∧ b < base + n then unlistedByte sp else Memory.read sp m b :=
  Sparse.read_clear (unlistedByte sp) m base n b

theorem Memory.wf_write (sp : Space) (m : List Host.Cell) (a : Nat) (v : Byte) (h : Memory.wf sp m = true) :
    Memory.wf sp (Memory.write sp m a v) = true :=
  Sparse.wf_write (unlistedByte sp) m a v h

theorem Memory.wf_writeBytes (sp : Space) (bytes : List Byte) :
    ∀ (m : List Host.Cell) (base : Nat), Memory.wf sp m = true →
      Memory.wf sp (Memory.writeBytes sp m base bytes) = true := by
  induction bytes with
  | nil => intro m base h; exact h
  | cons x xs ih => intro m base h; exact ih _ _ (Memory.wf_write sp m base x h)

theorem Memory.wf_clearBytes (sp : Space) (m : List Host.Cell) (base n : Nat) (h : Memory.wf sp m = true) :
    Memory.wf sp (Memory.clearBytes m base n) = true :=
  Sparse.wf_clear (unlistedByte sp) m base n h

@[simp] theorem Memory.length_readBytes (sp : Space) (m : List Host.Cell) (base n : Nat) :
    (Memory.readBytes sp m base n).length = n := by simp [Memory.readBytes]

theorem Memory.getD_readBytes (sp : Space) (m : List Host.Cell) (base n i : Nat) (x : Byte) (h : i < n) :
    (Memory.readBytes sp m base n).getD i x = Memory.read sp m (base + i) := by
  simp [Memory.readBytes, List.getD_eq_getElem?_getD, h]

/-- A byte of a buffer after a byte is written. -/
theorem Device.bufByte_setBufByte (d : Device) (p q : Bool) (i j : Nat) (v : Byte) :
    (d.setBufByte p i v).bufByte q j = if bufKey q j = bufKey p i then v else d.bufByte q j :=
  Memory.read_write .buffers d.buf (bufKey p i) (bufKey q j) v

/-- Keys of in-range bytes are equal only for the same buffer and index. -/
theorem bufKey_inj {p q : Bool} {i j : Nat} (hi : i < 528) (hj : j < 528) :
    bufKey q j = bufKey p i ↔ q = p ∧ j = i := by
  cases p <;> cases q <;> simp [bufKey] <;> omega

/-- A flash byte after a range is given new content. -/
theorem Device.read_setFlash (d : Device) (base n b : Nat) (content : List Byte) :
    Memory.read .flash (d.setFlash base n content).flash b =
      if base ≤ b ∧ b < base + n then content.getD (b - base) 0xFF else Memory.read .flash d.flash b := by
  have key : (d.setFlash base n content).flash =
      Memory.writeBytes .flash (Memory.clearBytes d.flash base n) base (content.take n) := rfl
  rw [key, Memory.read_writeBytes, Memory.read_clearBytes]
  by_cases h : base ≤ b ∧ b < base + n
  · by_cases hl : b < base + (content.take n).length
    · have h1 : b - base < n := by omega
      simp only [List.length_take] at hl
      have h2 : b - base < content.length := by omega
      rw [if_pos ⟨h.1, by simpa using hl⟩, if_pos h]
      simp [List.getD_eq_getElem?_getD, h1, h2]
    · have h2 : content.length ≤ b - base := by simp only [List.length_take] at hl; omega
      have h3 : ¬ (base ≤ b ∧ b < base + (content.take n).length) := fun hc => hl hc.2
      rw [if_neg h3, if_pos h, if_pos h]
      simp [List.getD_eq_getElem?_getD, List.getElem?_eq_none h2, unlistedByte]
  · have h3 : ¬ (base ≤ b ∧ b < base + (content.take n).length) := by
      simp only [List.length_take]; omega
    rw [if_neg h3, if_neg h, if_neg h]

theorem Device.blockStatus_setBlockStatus (d : Device) (b c : Nat) (st : BlockStatus) :
    (d.setBlockStatus b st).blockStatus c = if c = b then st else d.blockStatus c :=
  Sparse.read_write unlistedStatus d.usage b c st

/-- The reset machine's memories are in canonical form. -/
theorem reset_memories_wf : Memory.wf .buffers State.reset.dev.buf = true ∧
    Memory.wf .flash State.reset.dev.flash = true ∧ Sparse.wf unlistedStatus State.reset.dev.usage = true := by
  decide

end Sys2Proof.Machine
end

