-- ==== Sys2Proof/Laws/State.lean ====
section
/-! SUPPORT. For each update of the state, what each field reads after it. -/

namespace Sys2Proof.Machine

@[simp] theorem State.withDev_dev (s : State) (d : Device) : (s.withDev d).dev = d := rfl
@[simp] theorem State.withDev_twin (s : State) (d : Device) : (s.withDev d).twin = s.twin := rfl
@[simp] theorem State.withDev_lineOut (s : State) (d : Device) : (s.withDev d).lineOut = s.lineOut := rfl
@[simp] theorem State.withDev_lineIn (s : State) (d : Device) : (s.withDev d).lineIn = s.lineIn := rfl
@[simp] theorem State.withDev_pending (s : State) (d : Device) : (s.withDev d).pending = s.pending := rfl
@[simp] theorem State.withDev_eventCount (s : State) (d : Device) : (s.withDev d).eventCount = s.eventCount := rfl

@[simp] theorem Device.raise_params (d : Device) (e : ErrBit) : (d.raise e).params = d.params := rfl
@[simp] theorem Device.raise_usbHost (d : Device) (e : ErrBit) : (d.raise e).usbHost = d.usbHost := rfl
@[simp] theorem Device.raise_readData (d : Device) (e : ErrBit) : (d.raise e).readData = d.readData := rfl
@[simp] theorem Device.raise_seq (d : Device) (e : ErrBit) : (d.raise e).seq = d.seq := rfl
@[simp] theorem Device.raise_flashReq (d : Device) (e : ErrBit) : (d.raise e).flashReq = d.flashReq := rfl
@[simp] theorem Device.raise_flashResult (d : Device) (e : ErrBit) : (d.raise e).flashResult = d.flashResult := rfl
@[simp] theorem Device.raise_bookReq (d : Device) (e : ErrBit) : (d.raise e).bookReq = d.bookReq := rfl
@[simp] theorem Device.raise_bookResult (d : Device) (e : ErrBit) : (d.raise e).bookResult = d.bookResult := rfl
@[simp] theorem Device.raise_eccCode (d : Device) (e : ErrBit) : (d.raise e).eccCode = d.eccCode := rfl
@[simp] theorem Device.raise_eccSyn (d : Device) (e : ErrBit) : (d.raise e).eccSyn = d.eccSyn := rfl
@[simp] theorem Device.raise_err (d : Device) (e : ErrBit) : (d.raise e).err = d.err ||| e.mask := rfl
@[simp] theorem Device.raise_chksum (d : Device) (e : ErrBit) : (d.raise e).chksum = d.chksum := rfl
@[simp] theorem Device.raise_acc (d : Device) (e : ErrBit) : (d.raise e).acc = d.acc := rfl
@[simp] theorem Device.raise_rngArmed (d : Device) (e : ErrBit) : (d.raise e).rngArmed = d.rngArmed := rfl
@[simp] theorem Device.raise_rngDone (d : Device) (e : ErrBit) : (d.raise e).rngDone = d.rngDone := rfl
@[simp] theorem Device.raise_scount (d : Device) (e : ErrBit) : (d.raise e).scount = d.scount := rfl
@[simp] theorem Device.raise_sel (d : Device) (e : ErrBit) : (d.raise e).sel = d.sel := rfl
@[simp] theorem Device.raise_buf (d : Device) (e : ErrBit) : (d.raise e).buf = d.buf := rfl
@[simp] theorem Device.raise_streamActive (d : Device) (e : ErrBit) : (d.raise e).streamActive = d.streamActive := rfl
@[simp] theorem Device.raise_soff (d : Device) (e : ErrBit) : (d.raise e).soff = d.soff := rfl
@[simp] theorem Device.raise_srem (d : Device) (e : ErrBit) : (d.raise e).srem = d.srem := rfl
@[simp] theorem Device.raise_conn (d : Device) (e : ErrBit) : (d.raise e).conn = d.conn := rfl
@[simp] theorem Device.raise_repl (d : Device) (e : ErrBit) : (d.raise e).repl = d.repl := rfl
@[simp] theorem Device.raise_curBlock (d : Device) (e : ErrBit) : (d.raise e).curBlock = d.curBlock := rfl
@[simp] theorem Device.raise_eccRes (d : Device) (e : ErrBit) : (d.raise e).eccRes = d.eccRes := rfl
@[simp] theorem Device.raise_chkOk (d : Device) (e : ErrBit) : (d.raise e).chkOk = d.chkOk := rfl
@[simp] theorem Device.raise_negT (d : Device) (e : ErrBit) : (d.raise e).negT = d.negT := rfl
@[simp] theorem Device.raise_negD (d : Device) (e : ErrBit) : (d.raise e).negD = d.negD := rfl
@[simp] theorem Device.raise_negForce (d : Device) (e : ErrBit) : (d.raise e).negForce = d.negForce := rfl
@[simp] theorem Device.raise_negPrio (d : Device) (e : ErrBit) : (d.raise e).negPrio = d.negPrio := rfl
@[simp] theorem Device.raise_negRounds (d : Device) (e : ErrBit) : (d.raise e).negRounds = d.negRounds := rfl
@[simp] theorem Device.raise_rxq (d : Device) (e : ErrBit) : (d.raise e).rxq = d.rxq := rfl
@[simp] theorem Device.raise_txq (d : Device) (e : ErrBit) : (d.raise e).txq = d.txq := rfl
@[simp] theorem Device.raise_flash (d : Device) (e : ErrBit) : (d.raise e).flash = d.flash := rfl
@[simp] theorem Device.raise_usage (d : Device) (e : ErrBit) : (d.raise e).usage = d.usage := rfl
@[simp] theorem Device.raise_flags (d : Device) (e : ErrBit) : (d.raise e).flags = d.flags := rfl

@[simp] theorem Device.clearErr_params (d : Device) (v : Word) : (d.clearErr v).params = d.params := rfl
@[simp] theorem Device.clearErr_usbHost (d : Device) (v : Word) : (d.clearErr v).usbHost = d.usbHost := rfl
@[simp] theorem Device.clearErr_readData (d : Device) (v : Word) : (d.clearErr v).readData = d.readData := rfl
@[simp] theorem Device.clearErr_seq (d : Device) (v : Word) : (d.clearErr v).seq = d.seq := rfl
@[simp] theorem Device.clearErr_flashReq (d : Device) (v : Word) : (d.clearErr v).flashReq = d.flashReq := rfl
@[simp] theorem Device.clearErr_flashResult (d : Device) (v : Word) : (d.clearErr v).flashResult = d.flashResult := rfl
@[simp] theorem Device.clearErr_bookReq (d : Device) (v : Word) : (d.clearErr v).bookReq = d.bookReq := rfl
@[simp] theorem Device.clearErr_bookResult (d : Device) (v : Word) : (d.clearErr v).bookResult = d.bookResult := rfl
@[simp] theorem Device.clearErr_eccCode (d : Device) (v : Word) : (d.clearErr v).eccCode = d.eccCode := rfl
@[simp] theorem Device.clearErr_eccSyn (d : Device) (v : Word) : (d.clearErr v).eccSyn = d.eccSyn := rfl
@[simp] theorem Device.clearErr_err (d : Device) (v : Word) : (d.clearErr v).err = d.err &&& ~~~(v.setWidth 10) := rfl
@[simp] theorem Device.clearErr_chksum (d : Device) (v : Word) : (d.clearErr v).chksum = d.chksum := rfl
@[simp] theorem Device.clearErr_acc (d : Device) (v : Word) : (d.clearErr v).acc = d.acc := rfl
@[simp] theorem Device.clearErr_rngArmed (d : Device) (v : Word) : (d.clearErr v).rngArmed = d.rngArmed := rfl
@[simp] theorem Device.clearErr_rngDone (d : Device) (v : Word) : (d.clearErr v).rngDone = d.rngDone := rfl
@[simp] theorem Device.clearErr_scount (d : Device) (v : Word) : (d.clearErr v).scount = d.scount := rfl
@[simp] theorem Device.clearErr_sel (d : Device) (v : Word) : (d.clearErr v).sel = d.sel := rfl
@[simp] theorem Device.clearErr_buf (d : Device) (v : Word) : (d.clearErr v).buf = d.buf := rfl
@[simp] theorem Device.clearErr_streamActive (d : Device) (v : Word) : (d.clearErr v).streamActive = d.streamActive := rfl
@[simp] theorem Device.clearErr_soff (d : Device) (v : Word) : (d.clearErr v).soff = d.soff := rfl
@[simp] theorem Device.clearErr_srem (d : Device) (v : Word) : (d.clearErr v).srem = d.srem := rfl
@[simp] theorem Device.clearErr_conn (d : Device) (v : Word) : (d.clearErr v).conn = d.conn := rfl
@[simp] theorem Device.clearErr_repl (d : Device) (v : Word) : (d.clearErr v).repl = d.repl := rfl
@[simp] theorem Device.clearErr_curBlock (d : Device) (v : Word) : (d.clearErr v).curBlock = d.curBlock := rfl
@[simp] theorem Device.clearErr_eccRes (d : Device) (v : Word) : (d.clearErr v).eccRes = d.eccRes := rfl
@[simp] theorem Device.clearErr_chkOk (d : Device) (v : Word) : (d.clearErr v).chkOk = d.chkOk := rfl
@[simp] theorem Device.clearErr_negT (d : Device) (v : Word) : (d.clearErr v).negT = d.negT := rfl
@[simp] theorem Device.clearErr_negD (d : Device) (v : Word) : (d.clearErr v).negD = d.negD := rfl
@[simp] theorem Device.clearErr_negForce (d : Device) (v : Word) : (d.clearErr v).negForce = d.negForce := rfl
@[simp] theorem Device.clearErr_negPrio (d : Device) (v : Word) : (d.clearErr v).negPrio = d.negPrio := rfl
@[simp] theorem Device.clearErr_negRounds (d : Device) (v : Word) : (d.clearErr v).negRounds = d.negRounds := rfl
@[simp] theorem Device.clearErr_rxq (d : Device) (v : Word) : (d.clearErr v).rxq = d.rxq := rfl
@[simp] theorem Device.clearErr_txq (d : Device) (v : Word) : (d.clearErr v).txq = d.txq := rfl
@[simp] theorem Device.clearErr_flash (d : Device) (v : Word) : (d.clearErr v).flash = d.flash := rfl
@[simp] theorem Device.clearErr_usage (d : Device) (v : Word) : (d.clearErr v).usage = d.usage := rfl
@[simp] theorem Device.clearErr_flags (d : Device) (v : Word) : (d.clearErr v).flags = d.flags := rfl

@[simp] theorem Device.startCycle_params (d : Device) : (d.startCycle).params = d.params := rfl
@[simp] theorem Device.startCycle_usbHost (d : Device) : (d.startCycle).usbHost = d.usbHost := rfl
@[simp] theorem Device.startCycle_readData (d : Device) : (d.startCycle).readData = d.readData := rfl
@[simp] theorem Device.startCycle_seq (d : Device) : (d.startCycle).seq = d.seq := rfl
@[simp] theorem Device.startCycle_flashReq (d : Device) : (d.startCycle).flashReq = d.flashReq := rfl
@[simp] theorem Device.startCycle_flashResult (d : Device) : (d.startCycle).flashResult = d.flashResult := rfl
@[simp] theorem Device.startCycle_bookReq (d : Device) : (d.startCycle).bookReq = d.bookReq := rfl
@[simp] theorem Device.startCycle_bookResult (d : Device) : (d.startCycle).bookResult = d.bookResult := rfl
@[simp] theorem Device.startCycle_eccCode (d : Device) : (d.startCycle).eccCode = d.eccCode := rfl
@[simp] theorem Device.startCycle_eccSyn (d : Device) : (d.startCycle).eccSyn = d.eccSyn := rfl
@[simp] theorem Device.startCycle_err (d : Device) : (d.startCycle).err = d.err := rfl
@[simp] theorem Device.startCycle_chksum (d : Device) : (d.startCycle).chksum = d.chksum := rfl
@[simp] theorem Device.startCycle_acc (d : Device) : (d.startCycle).acc = d.acc := rfl
@[simp] theorem Device.startCycle_rngArmed (d : Device) : (d.startCycle).rngArmed = true := rfl
@[simp] theorem Device.startCycle_rngDone (d : Device) : (d.startCycle).rngDone = false := rfl
@[simp] theorem Device.startCycle_scount (d : Device) : (d.startCycle).scount = 0 := rfl
@[simp] theorem Device.startCycle_sel (d : Device) : (d.startCycle).sel = d.sel := rfl
@[simp] theorem Device.startCycle_buf (d : Device) : (d.startCycle).buf = d.buf := rfl
@[simp] theorem Device.startCycle_streamActive (d : Device) : (d.startCycle).streamActive = d.streamActive := rfl
@[simp] theorem Device.startCycle_soff (d : Device) : (d.startCycle).soff = d.soff := rfl
@[simp] theorem Device.startCycle_srem (d : Device) : (d.startCycle).srem = d.srem := rfl
@[simp] theorem Device.startCycle_conn (d : Device) : (d.startCycle).conn = d.conn := rfl
@[simp] theorem Device.startCycle_repl (d : Device) : (d.startCycle).repl = d.repl := rfl
@[simp] theorem Device.startCycle_curBlock (d : Device) : (d.startCycle).curBlock = d.curBlock := rfl
@[simp] theorem Device.startCycle_eccRes (d : Device) : (d.startCycle).eccRes = d.eccRes := rfl
@[simp] theorem Device.startCycle_chkOk (d : Device) : (d.startCycle).chkOk = d.chkOk := rfl
@[simp] theorem Device.startCycle_negT (d : Device) : (d.startCycle).negT = d.negT := rfl
@[simp] theorem Device.startCycle_negD (d : Device) : (d.startCycle).negD = d.negD := rfl
@[simp] theorem Device.startCycle_negForce (d : Device) : (d.startCycle).negForce = d.negForce := rfl
@[simp] theorem Device.startCycle_negPrio (d : Device) : (d.startCycle).negPrio = d.negPrio := rfl
@[simp] theorem Device.startCycle_negRounds (d : Device) : (d.startCycle).negRounds = d.negRounds := rfl
@[simp] theorem Device.startCycle_rxq (d : Device) : (d.startCycle).rxq = d.rxq := rfl
@[simp] theorem Device.startCycle_txq (d : Device) : (d.startCycle).txq = d.txq := rfl
@[simp] theorem Device.startCycle_flash (d : Device) : (d.startCycle).flash = d.flash := rfl
@[simp] theorem Device.startCycle_usage (d : Device) : (d.startCycle).usage = d.usage := rfl
@[simp] theorem Device.startCycle_flags (d : Device) : (d.startCycle).flags = d.flags := rfl

@[simp] theorem Device.startStream_params (d : Device) (off len : Nat) : (d.startStream off len).params = d.params := rfl
@[simp] theorem Device.startStream_usbHost (d : Device) (off len : Nat) : (d.startStream off len).usbHost = d.usbHost := rfl
@[simp] theorem Device.startStream_readData (d : Device) (off len : Nat) : (d.startStream off len).readData = d.readData := rfl
@[simp] theorem Device.startStream_seq (d : Device) (off len : Nat) : (d.startStream off len).seq = d.seq := rfl
@[simp] theorem Device.startStream_flashReq (d : Device) (off len : Nat) : (d.startStream off len).flashReq = d.flashReq := rfl
@[simp] theorem Device.startStream_flashResult (d : Device) (off len : Nat) : (d.startStream off len).flashResult = d.flashResult := rfl
@[simp] theorem Device.startStream_bookReq (d : Device) (off len : Nat) : (d.startStream off len).bookReq = d.bookReq := rfl
@[simp] theorem Device.startStream_bookResult (d : Device) (off len : Nat) : (d.startStream off len).bookResult = d.bookResult := rfl
@[simp] theorem Device.startStream_eccCode (d : Device) (off len : Nat) : (d.startStream off len).eccCode = d.eccCode := rfl
@[simp] theorem Device.startStream_eccSyn (d : Device) (off len : Nat) : (d.startStream off len).eccSyn = d.eccSyn := rfl
@[simp] theorem Device.startStream_err (d : Device) (off len : Nat) : (d.startStream off len).err = d.err := rfl
@[simp] theorem Device.startStream_chksum (d : Device) (off len : Nat) : (d.startStream off len).chksum = d.chksum := rfl
@[simp] theorem Device.startStream_acc (d : Device) (off len : Nat) : (d.startStream off len).acc = d.acc := rfl
@[simp] theorem Device.startStream_rngArmed (d : Device) (off len : Nat) : (d.startStream off len).rngArmed = true := rfl
@[simp] theorem Device.startStream_rngDone (d : Device) (off len : Nat) : (d.startStream off len).rngDone = false := rfl
@[simp] theorem Device.startStream_scount (d : Device) (off len : Nat) : (d.startStream off len).scount = 0 := rfl
@[simp] theorem Device.startStream_sel (d : Device) (off len : Nat) : (d.startStream off len).sel = d.sel := rfl
@[simp] theorem Device.startStream_buf (d : Device) (off len : Nat) : (d.startStream off len).buf = d.buf := rfl
@[simp] theorem Device.startStream_streamActive (d : Device) (off len : Nat) : (d.startStream off len).streamActive = true := rfl
@[simp] theorem Device.startStream_soff (d : Device) (off len : Nat) : (d.startStream off len).soff = off := rfl
@[simp] theorem Device.startStream_srem (d : Device) (off len : Nat) : (d.startStream off len).srem = len := rfl
@[simp] theorem Device.startStream_conn (d : Device) (off len : Nat) : (d.startStream off len).conn = d.conn := rfl
@[simp] theorem Device.startStream_repl (d : Device) (off len : Nat) : (d.startStream off len).repl = d.repl := rfl
@[simp] theorem Device.startStream_curBlock (d : Device) (off len : Nat) : (d.startStream off len).curBlock = d.curBlock := rfl
@[simp] theorem Device.startStream_eccRes (d : Device) (off len : Nat) : (d.startStream off len).eccRes = d.eccRes := rfl
@[simp] theorem Device.startStream_chkOk (d : Device) (off len : Nat) : (d.startStream off len).chkOk = d.chkOk := rfl
@[simp] theorem Device.startStream_negT (d : Device) (off len : Nat) : (d.startStream off len).negT = d.negT := rfl
@[simp] theorem Device.startStream_negD (d : Device) (off len : Nat) : (d.startStream off len).negD = d.negD := rfl
@[simp] theorem Device.startStream_negForce (d : Device) (off len : Nat) : (d.startStream off len).negForce = d.negForce := rfl
@[simp] theorem Device.startStream_negPrio (d : Device) (off len : Nat) : (d.startStream off len).negPrio = d.negPrio := rfl
@[simp] theorem Device.startStream_negRounds (d : Device) (off len : Nat) : (d.startStream off len).negRounds = d.negRounds := rfl
@[simp] theorem Device.startStream_rxq (d : Device) (off len : Nat) : (d.startStream off len).rxq = d.rxq := rfl
@[simp] theorem Device.startStream_txq (d : Device) (off len : Nat) : (d.startStream off len).txq = d.txq := rfl
@[simp] theorem Device.startStream_flash (d : Device) (off len : Nat) : (d.startStream off len).flash = d.flash := rfl
@[simp] theorem Device.startStream_usage (d : Device) (off len : Nat) : (d.startStream off len).usage = d.usage := rfl
@[simp] theorem Device.startStream_flags (d : Device) (off len : Nat) : (d.startStream off len).flags = d.flags := rfl

@[simp] theorem Device.swapBuffers_params (d : Device) : (d.swapBuffers).params = d.params := rfl
@[simp] theorem Device.swapBuffers_usbHost (d : Device) : (d.swapBuffers).usbHost = d.usbHost := rfl
@[simp] theorem Device.swapBuffers_readData (d : Device) : (d.swapBuffers).readData = d.readData := rfl
@[simp] theorem Device.swapBuffers_seq (d : Device) : (d.swapBuffers).seq = d.seq := rfl
@[simp] theorem Device.swapBuffers_flashReq (d : Device) : (d.swapBuffers).flashReq = d.flashReq := rfl
@[simp] theorem Device.swapBuffers_flashResult (d : Device) : (d.swapBuffers).flashResult = d.flashResult := rfl
@[simp] theorem Device.swapBuffers_bookReq (d : Device) : (d.swapBuffers).bookReq = d.bookReq := rfl
@[simp] theorem Device.swapBuffers_bookResult (d : Device) : (d.swapBuffers).bookResult = d.bookResult := rfl
@[simp] theorem Device.swapBuffers_eccCode (d : Device) : (d.swapBuffers).eccCode = d.eccCode := rfl
@[simp] theorem Device.swapBuffers_eccSyn (d : Device) : (d.swapBuffers).eccSyn = d.eccSyn := rfl
@[simp] theorem Device.swapBuffers_err (d : Device) : (d.swapBuffers).err = d.err := rfl
@[simp] theorem Device.swapBuffers_chksum (d : Device) : (d.swapBuffers).chksum = d.chksum := rfl
@[simp] theorem Device.swapBuffers_acc (d : Device) : (d.swapBuffers).acc = d.acc := rfl
@[simp] theorem Device.swapBuffers_rngArmed (d : Device) : (d.swapBuffers).rngArmed = d.rngArmed := rfl
@[simp] theorem Device.swapBuffers_rngDone (d : Device) : (d.swapBuffers).rngDone = d.rngDone := rfl
@[simp] theorem Device.swapBuffers_scount (d : Device) : (d.swapBuffers).scount = d.scount := rfl
@[simp] theorem Device.swapBuffers_sel (d : Device) : (d.swapBuffers).sel = !d.sel := rfl
@[simp] theorem Device.swapBuffers_buf (d : Device) : (d.swapBuffers).buf = d.buf := rfl
@[simp] theorem Device.swapBuffers_streamActive (d : Device) : (d.swapBuffers).streamActive = d.streamActive := rfl
@[simp] theorem Device.swapBuffers_soff (d : Device) : (d.swapBuffers).soff = d.soff := rfl
@[simp] theorem Device.swapBuffers_srem (d : Device) : (d.swapBuffers).srem = d.srem := rfl
@[simp] theorem Device.swapBuffers_conn (d : Device) : (d.swapBuffers).conn = d.conn := rfl
@[simp] theorem Device.swapBuffers_repl (d : Device) : (d.swapBuffers).repl = d.repl := rfl
@[simp] theorem Device.swapBuffers_curBlock (d : Device) : (d.swapBuffers).curBlock = d.curBlock := rfl
@[simp] theorem Device.swapBuffers_eccRes (d : Device) : (d.swapBuffers).eccRes = d.eccRes := rfl
@[simp] theorem Device.swapBuffers_chkOk (d : Device) : (d.swapBuffers).chkOk = d.chkOk := rfl
@[simp] theorem Device.swapBuffers_negT (d : Device) : (d.swapBuffers).negT = d.negT := rfl
@[simp] theorem Device.swapBuffers_negD (d : Device) : (d.swapBuffers).negD = d.negD := rfl
@[simp] theorem Device.swapBuffers_negForce (d : Device) : (d.swapBuffers).negForce = d.negForce := rfl
@[simp] theorem Device.swapBuffers_negPrio (d : Device) : (d.swapBuffers).negPrio = d.negPrio := rfl
@[simp] theorem Device.swapBuffers_negRounds (d : Device) : (d.swapBuffers).negRounds = d.negRounds := rfl
@[simp] theorem Device.swapBuffers_rxq (d : Device) : (d.swapBuffers).rxq = d.rxq := rfl
@[simp] theorem Device.swapBuffers_txq (d : Device) : (d.swapBuffers).txq = d.txq := rfl
@[simp] theorem Device.swapBuffers_flash (d : Device) : (d.swapBuffers).flash = d.flash := rfl
@[simp] theorem Device.swapBuffers_usage (d : Device) : (d.swapBuffers).usage = d.usage := rfl
@[simp] theorem Device.swapBuffers_flags (d : Device) : (d.swapBuffers).flags = d.flags := rfl

@[simp] theorem Device.send_params (d : Device) (xs : List Byte) : (d.send xs).params = d.params := rfl
@[simp] theorem Device.send_usbHost (d : Device) (xs : List Byte) : (d.send xs).usbHost = d.usbHost := rfl
@[simp] theorem Device.send_readData (d : Device) (xs : List Byte) : (d.send xs).readData = d.readData := rfl
@[simp] theorem Device.send_seq (d : Device) (xs : List Byte) : (d.send xs).seq = d.seq := rfl
@[simp] theorem Device.send_flashReq (d : Device) (xs : List Byte) : (d.send xs).flashReq = d.flashReq := rfl
@[simp] theorem Device.send_flashResult (d : Device) (xs : List Byte) : (d.send xs).flashResult = d.flashResult := rfl
@[simp] theorem Device.send_bookReq (d : Device) (xs : List Byte) : (d.send xs).bookReq = d.bookReq := rfl
@[simp] theorem Device.send_bookResult (d : Device) (xs : List Byte) : (d.send xs).bookResult = d.bookResult := rfl
@[simp] theorem Device.send_eccCode (d : Device) (xs : List Byte) : (d.send xs).eccCode = d.eccCode := rfl
@[simp] theorem Device.send_eccSyn (d : Device) (xs : List Byte) : (d.send xs).eccSyn = d.eccSyn := rfl
@[simp] theorem Device.send_err (d : Device) (xs : List Byte) : (d.send xs).err = d.err := rfl
@[simp] theorem Device.send_chksum (d : Device) (xs : List Byte) : (d.send xs).chksum = d.chksum := rfl
@[simp] theorem Device.send_acc (d : Device) (xs : List Byte) : (d.send xs).acc = d.acc := rfl
@[simp] theorem Device.send_rngArmed (d : Device) (xs : List Byte) : (d.send xs).rngArmed = d.rngArmed := rfl
@[simp] theorem Device.send_rngDone (d : Device) (xs : List Byte) : (d.send xs).rngDone = d.rngDone := rfl
@[simp] theorem Device.send_scount (d : Device) (xs : List Byte) : (d.send xs).scount = d.scount := rfl
@[simp] theorem Device.send_sel (d : Device) (xs : List Byte) : (d.send xs).sel = d.sel := rfl
@[simp] theorem Device.send_buf (d : Device) (xs : List Byte) : (d.send xs).buf = d.buf := rfl
@[simp] theorem Device.send_streamActive (d : Device) (xs : List Byte) : (d.send xs).streamActive = d.streamActive := rfl
@[simp] theorem Device.send_soff (d : Device) (xs : List Byte) : (d.send xs).soff = d.soff := rfl
@[simp] theorem Device.send_srem (d : Device) (xs : List Byte) : (d.send xs).srem = d.srem := rfl
@[simp] theorem Device.send_conn (d : Device) (xs : List Byte) : (d.send xs).conn = d.conn := rfl
@[simp] theorem Device.send_repl (d : Device) (xs : List Byte) : (d.send xs).repl = d.repl := rfl
@[simp] theorem Device.send_curBlock (d : Device) (xs : List Byte) : (d.send xs).curBlock = d.curBlock := rfl
@[simp] theorem Device.send_eccRes (d : Device) (xs : List Byte) : (d.send xs).eccRes = d.eccRes := rfl
@[simp] theorem Device.send_chkOk (d : Device) (xs : List Byte) : (d.send xs).chkOk = d.chkOk := rfl
@[simp] theorem Device.send_negT (d : Device) (xs : List Byte) : (d.send xs).negT = d.negT := rfl
@[simp] theorem Device.send_negD (d : Device) (xs : List Byte) : (d.send xs).negD = d.negD := rfl
@[simp] theorem Device.send_negForce (d : Device) (xs : List Byte) : (d.send xs).negForce = d.negForce := rfl
@[simp] theorem Device.send_negPrio (d : Device) (xs : List Byte) : (d.send xs).negPrio = d.negPrio := rfl
@[simp] theorem Device.send_negRounds (d : Device) (xs : List Byte) : (d.send xs).negRounds = d.negRounds := rfl
@[simp] theorem Device.send_rxq (d : Device) (xs : List Byte) : (d.send xs).rxq = d.rxq := rfl
@[simp] theorem Device.send_txq (d : Device) (xs : List Byte) : (d.send xs).txq = d.txq ++ xs.map TxEntry.lit := rfl
@[simp] theorem Device.send_flash (d : Device) (xs : List Byte) : (d.send xs).flash = d.flash := rfl
@[simp] theorem Device.send_usage (d : Device) (xs : List Byte) : (d.send xs).usage = d.usage := rfl
@[simp] theorem Device.send_flags (d : Device) (xs : List Byte) : (d.send xs).flags = d.flags := rfl

@[simp] theorem Device.sendRefs_params (d : Device) (p : Bool) (n : Nat) : (d.sendRefs p n).params = d.params := rfl
@[simp] theorem Device.sendRefs_usbHost (d : Device) (p : Bool) (n : Nat) : (d.sendRefs p n).usbHost = d.usbHost := rfl
@[simp] theorem Device.sendRefs_readData (d : Device) (p : Bool) (n : Nat) : (d.sendRefs p n).readData = d.readData := rfl
@[simp] theorem Device.sendRefs_seq (d : Device) (p : Bool) (n : Nat) : (d.sendRefs p n).seq = d.seq := rfl
@[simp] theorem Device.sendRefs_flashReq (d : Device) (p : Bool) (n : Nat) : (d.sendRefs p n).flashReq = d.flashReq := rfl
@[simp] theorem Device.sendRefs_flashResult (d : Device) (p : Bool) (n : Nat) : (d.sendRefs p n).flashResult = d.flashResult := rfl
@[simp] theorem Device.sendRefs_bookReq (d : Device) (p : Bool) (n : Nat) : (d.sendRefs p n).bookReq = d.bookReq := rfl
@[simp] theorem Device.sendRefs_bookResult (d : Device) (p : Bool) (n : Nat) : (d.sendRefs p n).bookResult = d.bookResult := rfl
@[simp] theorem Device.sendRefs_eccCode (d : Device) (p : Bool) (n : Nat) : (d.sendRefs p n).eccCode = d.eccCode := rfl
@[simp] theorem Device.sendRefs_eccSyn (d : Device) (p : Bool) (n : Nat) : (d.sendRefs p n).eccSyn = d.eccSyn := rfl
@[simp] theorem Device.sendRefs_err (d : Device) (p : Bool) (n : Nat) : (d.sendRefs p n).err = d.err := rfl
@[simp] theorem Device.sendRefs_chksum (d : Device) (p : Bool) (n : Nat) : (d.sendRefs p n).chksum = d.chksum := rfl
@[simp] theorem Device.sendRefs_acc (d : Device) (p : Bool) (n : Nat) : (d.sendRefs p n).acc = d.acc := rfl
@[simp] theorem Device.sendRefs_rngArmed (d : Device) (p : Bool) (n : Nat) : (d.sendRefs p n).rngArmed = d.rngArmed := rfl
@[simp] theorem Device.sendRefs_rngDone (d : Device) (p : Bool) (n : Nat) : (d.sendRefs p n).rngDone = d.rngDone := rfl
@[simp] theorem Device.sendRefs_scount (d : Device) (p : Bool) (n : Nat) : (d.sendRefs p n).scount = d.scount := rfl
@[simp] theorem Device.sendRefs_sel (d : Device) (p : Bool) (n : Nat) : (d.sendRefs p n).sel = d.sel := rfl
@[simp] theorem Device.sendRefs_buf (d : Device) (p : Bool) (n : Nat) : (d.sendRefs p n).buf = d.buf := rfl
@[simp] theorem Device.sendRefs_streamActive (d : Device) (p : Bool) (n : Nat) : (d.sendRefs p n).streamActive = d.streamActive := rfl
@[simp] theorem Device.sendRefs_soff (d : Device) (p : Bool) (n : Nat) : (d.sendRefs p n).soff = d.soff := rfl
@[simp] theorem Device.sendRefs_srem (d : Device) (p : Bool) (n : Nat) : (d.sendRefs p n).srem = d.srem := rfl
@[simp] theorem Device.sendRefs_conn (d : Device) (p : Bool) (n : Nat) : (d.sendRefs p n).conn = d.conn := rfl
@[simp] theorem Device.sendRefs_repl (d : Device) (p : Bool) (n : Nat) : (d.sendRefs p n).repl = d.repl := rfl
@[simp] theorem Device.sendRefs_curBlock (d : Device) (p : Bool) (n : Nat) : (d.sendRefs p n).curBlock = d.curBlock := rfl
@[simp] theorem Device.sendRefs_eccRes (d : Device) (p : Bool) (n : Nat) : (d.sendRefs p n).eccRes = d.eccRes := rfl
@[simp] theorem Device.sendRefs_chkOk (d : Device) (p : Bool) (n : Nat) : (d.sendRefs p n).chkOk = d.chkOk := rfl
@[simp] theorem Device.sendRefs_negT (d : Device) (p : Bool) (n : Nat) : (d.sendRefs p n).negT = d.negT := rfl
@[simp] theorem Device.sendRefs_negD (d : Device) (p : Bool) (n : Nat) : (d.sendRefs p n).negD = d.negD := rfl
@[simp] theorem Device.sendRefs_negForce (d : Device) (p : Bool) (n : Nat) : (d.sendRefs p n).negForce = d.negForce := rfl
@[simp] theorem Device.sendRefs_negPrio (d : Device) (p : Bool) (n : Nat) : (d.sendRefs p n).negPrio = d.negPrio := rfl
@[simp] theorem Device.sendRefs_negRounds (d : Device) (p : Bool) (n : Nat) : (d.sendRefs p n).negRounds = d.negRounds := rfl
@[simp] theorem Device.sendRefs_rxq (d : Device) (p : Bool) (n : Nat) : (d.sendRefs p n).rxq = d.rxq := rfl
@[simp] theorem Device.sendRefs_txq (d : Device) (p : Bool) (n : Nat) : (d.sendRefs p n).txq = d.txq ++ (List.range n).map (TxEntry.ref p) := rfl
@[simp] theorem Device.sendRefs_flash (d : Device) (p : Bool) (n : Nat) : (d.sendRefs p n).flash = d.flash := rfl
@[simp] theorem Device.sendRefs_usage (d : Device) (p : Bool) (n : Nat) : (d.sendRefs p n).usage = d.usage := rfl
@[simp] theorem Device.sendRefs_flags (d : Device) (p : Bool) (n : Nat) : (d.sendRefs p n).flags = d.flags := rfl

@[simp] theorem Device.requestFlash_params (d : Device) (r : FlashRequest) : (d.requestFlash r).params = d.params := rfl
@[simp] theorem Device.requestFlash_usbHost (d : Device) (r : FlashRequest) : (d.requestFlash r).usbHost = d.usbHost := rfl
@[simp] theorem Device.requestFlash_readData (d : Device) (r : FlashRequest) : (d.requestFlash r).readData = d.readData := rfl
@[simp] theorem Device.requestFlash_seq (d : Device) (r : FlashRequest) : (d.requestFlash r).seq = d.seq := rfl
@[simp] theorem Device.requestFlash_flashReq (d : Device) (r : FlashRequest) : (d.requestFlash r).flashReq = some r := rfl
@[simp] theorem Device.requestFlash_flashResult (d : Device) (r : FlashRequest) : (d.requestFlash r).flashResult = none := rfl
@[simp] theorem Device.requestFlash_bookReq (d : Device) (r : FlashRequest) : (d.requestFlash r).bookReq = d.bookReq := rfl
@[simp] theorem Device.requestFlash_bookResult (d : Device) (r : FlashRequest) : (d.requestFlash r).bookResult = d.bookResult := rfl
@[simp] theorem Device.requestFlash_eccCode (d : Device) (r : FlashRequest) : (d.requestFlash r).eccCode = d.eccCode := rfl
@[simp] theorem Device.requestFlash_eccSyn (d : Device) (r : FlashRequest) : (d.requestFlash r).eccSyn = d.eccSyn := rfl
@[simp] theorem Device.requestFlash_err (d : Device) (r : FlashRequest) : (d.requestFlash r).err = d.err := rfl
@[simp] theorem Device.requestFlash_chksum (d : Device) (r : FlashRequest) : (d.requestFlash r).chksum = d.chksum := rfl
@[simp] theorem Device.requestFlash_acc (d : Device) (r : FlashRequest) : (d.requestFlash r).acc = d.acc := rfl
@[simp] theorem Device.requestFlash_rngArmed (d : Device) (r : FlashRequest) : (d.requestFlash r).rngArmed = d.rngArmed := rfl
@[simp] theorem Device.requestFlash_rngDone (d : Device) (r : FlashRequest) : (d.requestFlash r).rngDone = d.rngDone := rfl
@[simp] theorem Device.requestFlash_scount (d : Device) (r : FlashRequest) : (d.requestFlash r).scount = d.scount := rfl
@[simp] theorem Device.requestFlash_sel (d : Device) (r : FlashRequest) : (d.requestFlash r).sel = d.sel := rfl
@[simp] theorem Device.requestFlash_buf (d : Device) (r : FlashRequest) : (d.requestFlash r).buf = d.buf := rfl
@[simp] theorem Device.requestFlash_streamActive (d : Device) (r : FlashRequest) : (d.requestFlash r).streamActive = d.streamActive := rfl
@[simp] theorem Device.requestFlash_soff (d : Device) (r : FlashRequest) : (d.requestFlash r).soff = d.soff := rfl
@[simp] theorem Device.requestFlash_srem (d : Device) (r : FlashRequest) : (d.requestFlash r).srem = d.srem := rfl
@[simp] theorem Device.requestFlash_conn (d : Device) (r : FlashRequest) : (d.requestFlash r).conn = d.conn := rfl
@[simp] theorem Device.requestFlash_repl (d : Device) (r : FlashRequest) : (d.requestFlash r).repl = d.repl := rfl
@[simp] theorem Device.requestFlash_curBlock (d : Device) (r : FlashRequest) : (d.requestFlash r).curBlock = d.curBlock := rfl
@[simp] theorem Device.requestFlash_eccRes (d : Device) (r : FlashRequest) : (d.requestFlash r).eccRes = d.eccRes := rfl
@[simp] theorem Device.requestFlash_chkOk (d : Device) (r : FlashRequest) : (d.requestFlash r).chkOk = d.chkOk := rfl
@[simp] theorem Device.requestFlash_negT (d : Device) (r : FlashRequest) : (d.requestFlash r).negT = d.negT := rfl
@[simp] theorem Device.requestFlash_negD (d : Device) (r : FlashRequest) : (d.requestFlash r).negD = d.negD := rfl
@[simp] theorem Device.requestFlash_negForce (d : Device) (r : FlashRequest) : (d.requestFlash r).negForce = d.negForce := rfl
@[simp] theorem Device.requestFlash_negPrio (d : Device) (r : FlashRequest) : (d.requestFlash r).negPrio = d.negPrio := rfl
@[simp] theorem Device.requestFlash_negRounds (d : Device) (r : FlashRequest) : (d.requestFlash r).negRounds = d.negRounds := rfl
@[simp] theorem Device.requestFlash_rxq (d : Device) (r : FlashRequest) : (d.requestFlash r).rxq = d.rxq := rfl
@[simp] theorem Device.requestFlash_txq (d : Device) (r : FlashRequest) : (d.requestFlash r).txq = d.txq := rfl
@[simp] theorem Device.requestFlash_flash (d : Device) (r : FlashRequest) : (d.requestFlash r).flash = d.flash := rfl
@[simp] theorem Device.requestFlash_usage (d : Device) (r : FlashRequest) : (d.requestFlash r).usage = d.usage := rfl
@[simp] theorem Device.requestFlash_flags (d : Device) (r : FlashRequest) : (d.requestFlash r).flags = d.flags := rfl

@[simp] theorem Device.requestBook_params (d : Device) (r : BookRequest) : (d.requestBook r).params = d.params := rfl
@[simp] theorem Device.requestBook_usbHost (d : Device) (r : BookRequest) : (d.requestBook r).usbHost = d.usbHost := rfl
@[simp] theorem Device.requestBook_readData (d : Device) (r : BookRequest) : (d.requestBook r).readData = d.readData := rfl
@[simp] theorem Device.requestBook_seq (d : Device) (r : BookRequest) : (d.requestBook r).seq = d.seq := rfl
@[simp] theorem Device.requestBook_flashReq (d : Device) (r : BookRequest) : (d.requestBook r).flashReq = d.flashReq := rfl
@[simp] theorem Device.requestBook_flashResult (d : Device) (r : BookRequest) : (d.requestBook r).flashResult = d.flashResult := rfl
@[simp] theorem Device.requestBook_bookReq (d : Device) (r : BookRequest) : (d.requestBook r).bookReq = some r := rfl
@[simp] theorem Device.requestBook_bookResult (d : Device) (r : BookRequest) : (d.requestBook r).bookResult = none := rfl
@[simp] theorem Device.requestBook_eccCode (d : Device) (r : BookRequest) : (d.requestBook r).eccCode = d.eccCode := rfl
@[simp] theorem Device.requestBook_eccSyn (d : Device) (r : BookRequest) : (d.requestBook r).eccSyn = d.eccSyn := rfl
@[simp] theorem Device.requestBook_err (d : Device) (r : BookRequest) : (d.requestBook r).err = d.err := rfl
@[simp] theorem Device.requestBook_chksum (d : Device) (r : BookRequest) : (d.requestBook r).chksum = d.chksum := rfl
@[simp] theorem Device.requestBook_acc (d : Device) (r : BookRequest) : (d.requestBook r).acc = d.acc := rfl
@[simp] theorem Device.requestBook_rngArmed (d : Device) (r : BookRequest) : (d.requestBook r).rngArmed = d.rngArmed := rfl
@[simp] theorem Device.requestBook_rngDone (d : Device) (r : BookRequest) : (d.requestBook r).rngDone = d.rngDone := rfl
@[simp] theorem Device.requestBook_scount (d : Device) (r : BookRequest) : (d.requestBook r).scount = d.scount := rfl
@[simp] theorem Device.requestBook_sel (d : Device) (r : BookRequest) : (d.requestBook r).sel = d.sel := rfl
@[simp] theorem Device.requestBook_buf (d : Device) (r : BookRequest) : (d.requestBook r).buf = d.buf := rfl
@[simp] theorem Device.requestBook_streamActive (d : Device) (r : BookRequest) : (d.requestBook r).streamActive = d.streamActive := rfl
@[simp] theorem Device.requestBook_soff (d : Device) (r : BookRequest) : (d.requestBook r).soff = d.soff := rfl
@[simp] theorem Device.requestBook_srem (d : Device) (r : BookRequest) : (d.requestBook r).srem = d.srem := rfl
@[simp] theorem Device.requestBook_conn (d : Device) (r : BookRequest) : (d.requestBook r).conn = d.conn := rfl
@[simp] theorem Device.requestBook_repl (d : Device) (r : BookRequest) : (d.requestBook r).repl = d.repl := rfl
@[simp] theorem Device.requestBook_curBlock (d : Device) (r : BookRequest) : (d.requestBook r).curBlock = d.curBlock := rfl
@[simp] theorem Device.requestBook_eccRes (d : Device) (r : BookRequest) : (d.requestBook r).eccRes = d.eccRes := rfl
@[simp] theorem Device.requestBook_chkOk (d : Device) (r : BookRequest) : (d.requestBook r).chkOk = d.chkOk := rfl
@[simp] theorem Device.requestBook_negT (d : Device) (r : BookRequest) : (d.requestBook r).negT = d.negT := rfl
@[simp] theorem Device.requestBook_negD (d : Device) (r : BookRequest) : (d.requestBook r).negD = d.negD := rfl
@[simp] theorem Device.requestBook_negForce (d : Device) (r : BookRequest) : (d.requestBook r).negForce = d.negForce := rfl
@[simp] theorem Device.requestBook_negPrio (d : Device) (r : BookRequest) : (d.requestBook r).negPrio = d.negPrio := rfl
@[simp] theorem Device.requestBook_negRounds (d : Device) (r : BookRequest) : (d.requestBook r).negRounds = d.negRounds := rfl
@[simp] theorem Device.requestBook_rxq (d : Device) (r : BookRequest) : (d.requestBook r).rxq = d.rxq := rfl
@[simp] theorem Device.requestBook_txq (d : Device) (r : BookRequest) : (d.requestBook r).txq = d.txq := rfl
@[simp] theorem Device.requestBook_flash (d : Device) (r : BookRequest) : (d.requestBook r).flash = d.flash := rfl
@[simp] theorem Device.requestBook_usage (d : Device) (r : BookRequest) : (d.requestBook r).usage = d.usage := rfl
@[simp] theorem Device.requestBook_flags (d : Device) (r : BookRequest) : (d.requestBook r).flags = d.flags := rfl

@[simp] theorem Device.takeFlash_params (d : Device) : (d.takeFlash).params = d.params := rfl
@[simp] theorem Device.takeFlash_usbHost (d : Device) : (d.takeFlash).usbHost = d.usbHost := rfl
@[simp] theorem Device.takeFlash_readData (d : Device) : (d.takeFlash).readData = d.readData := rfl
@[simp] theorem Device.takeFlash_seq (d : Device) : (d.takeFlash).seq = d.seq := rfl
@[simp] theorem Device.takeFlash_flashReq (d : Device) : (d.takeFlash).flashReq = d.flashReq := rfl
@[simp] theorem Device.takeFlash_flashResult (d : Device) : (d.takeFlash).flashResult = none := rfl
@[simp] theorem Device.takeFlash_bookReq (d : Device) : (d.takeFlash).bookReq = d.bookReq := rfl
@[simp] theorem Device.takeFlash_bookResult (d : Device) : (d.takeFlash).bookResult = d.bookResult := rfl
@[simp] theorem Device.takeFlash_eccCode (d : Device) : (d.takeFlash).eccCode = d.eccCode := rfl
@[simp] theorem Device.takeFlash_eccSyn (d : Device) : (d.takeFlash).eccSyn = d.eccSyn := rfl
@[simp] theorem Device.takeFlash_err (d : Device) : (d.takeFlash).err = d.err := rfl
@[simp] theorem Device.takeFlash_chksum (d : Device) : (d.takeFlash).chksum = d.chksum := rfl
@[simp] theorem Device.takeFlash_acc (d : Device) : (d.takeFlash).acc = d.acc := rfl
@[simp] theorem Device.takeFlash_rngArmed (d : Device) : (d.takeFlash).rngArmed = d.rngArmed := rfl
@[simp] theorem Device.takeFlash_rngDone (d : Device) : (d.takeFlash).rngDone = d.rngDone := rfl
@[simp] theorem Device.takeFlash_scount (d : Device) : (d.takeFlash).scount = d.scount := rfl
@[simp] theorem Device.takeFlash_sel (d : Device) : (d.takeFlash).sel = d.sel := rfl
@[simp] theorem Device.takeFlash_buf (d : Device) : (d.takeFlash).buf = d.buf := rfl
@[simp] theorem Device.takeFlash_streamActive (d : Device) : (d.takeFlash).streamActive = d.streamActive := rfl
@[simp] theorem Device.takeFlash_soff (d : Device) : (d.takeFlash).soff = d.soff := rfl
@[simp] theorem Device.takeFlash_srem (d : Device) : (d.takeFlash).srem = d.srem := rfl
@[simp] theorem Device.takeFlash_conn (d : Device) : (d.takeFlash).conn = d.conn := rfl
@[simp] theorem Device.takeFlash_repl (d : Device) : (d.takeFlash).repl = d.repl := rfl
@[simp] theorem Device.takeFlash_curBlock (d : Device) : (d.takeFlash).curBlock = d.curBlock := rfl
@[simp] theorem Device.takeFlash_eccRes (d : Device) : (d.takeFlash).eccRes = d.eccRes := rfl
@[simp] theorem Device.takeFlash_chkOk (d : Device) : (d.takeFlash).chkOk = d.chkOk := rfl
@[simp] theorem Device.takeFlash_negT (d : Device) : (d.takeFlash).negT = d.negT := rfl
@[simp] theorem Device.takeFlash_negD (d : Device) : (d.takeFlash).negD = d.negD := rfl
@[simp] theorem Device.takeFlash_negForce (d : Device) : (d.takeFlash).negForce = d.negForce := rfl
@[simp] theorem Device.takeFlash_negPrio (d : Device) : (d.takeFlash).negPrio = d.negPrio := rfl
@[simp] theorem Device.takeFlash_negRounds (d : Device) : (d.takeFlash).negRounds = d.negRounds := rfl
@[simp] theorem Device.takeFlash_rxq (d : Device) : (d.takeFlash).rxq = d.rxq := rfl
@[simp] theorem Device.takeFlash_txq (d : Device) : (d.takeFlash).txq = d.txq := rfl
@[simp] theorem Device.takeFlash_flash (d : Device) : (d.takeFlash).flash = d.flash := rfl
@[simp] theorem Device.takeFlash_usage (d : Device) : (d.takeFlash).usage = d.usage := rfl
@[simp] theorem Device.takeFlash_flags (d : Device) : (d.takeFlash).flags = d.flags := rfl

@[simp] theorem Device.takeBook_params (d : Device) : (d.takeBook).params = d.params := rfl
@[simp] theorem Device.takeBook_usbHost (d : Device) : (d.takeBook).usbHost = d.usbHost := rfl
@[simp] theorem Device.takeBook_readData (d : Device) : (d.takeBook).readData = d.readData := rfl
@[simp] theorem Device.takeBook_seq (d : Device) : (d.takeBook).seq = d.seq := rfl
@[simp] theorem Device.takeBook_flashReq (d : Device) : (d.takeBook).flashReq = d.flashReq := rfl
@[simp] theorem Device.takeBook_flashResult (d : Device) : (d.takeBook).flashResult = d.flashResult := rfl
@[simp] theorem Device.takeBook_bookReq (d : Device) : (d.takeBook).bookReq = d.bookReq := rfl
@[simp] theorem Device.takeBook_bookResult (d : Device) : (d.takeBook).bookResult = none := rfl
@[simp] theorem Device.takeBook_eccCode (d : Device) : (d.takeBook).eccCode = d.eccCode := rfl
@[simp] theorem Device.takeBook_eccSyn (d : Device) : (d.takeBook).eccSyn = d.eccSyn := rfl
@[simp] theorem Device.takeBook_err (d : Device) : (d.takeBook).err = d.err := rfl
@[simp] theorem Device.takeBook_chksum (d : Device) : (d.takeBook).chksum = d.chksum := rfl
@[simp] theorem Device.takeBook_acc (d : Device) : (d.takeBook).acc = d.acc := rfl
@[simp] theorem Device.takeBook_rngArmed (d : Device) : (d.takeBook).rngArmed = d.rngArmed := rfl
@[simp] theorem Device.takeBook_rngDone (d : Device) : (d.takeBook).rngDone = d.rngDone := rfl
@[simp] theorem Device.takeBook_scount (d : Device) : (d.takeBook).scount = d.scount := rfl
@[simp] theorem Device.takeBook_sel (d : Device) : (d.takeBook).sel = d.sel := rfl
@[simp] theorem Device.takeBook_buf (d : Device) : (d.takeBook).buf = d.buf := rfl
@[simp] theorem Device.takeBook_streamActive (d : Device) : (d.takeBook).streamActive = d.streamActive := rfl
@[simp] theorem Device.takeBook_soff (d : Device) : (d.takeBook).soff = d.soff := rfl
@[simp] theorem Device.takeBook_srem (d : Device) : (d.takeBook).srem = d.srem := rfl
@[simp] theorem Device.takeBook_conn (d : Device) : (d.takeBook).conn = d.conn := rfl
@[simp] theorem Device.takeBook_repl (d : Device) : (d.takeBook).repl = d.repl := rfl
@[simp] theorem Device.takeBook_curBlock (d : Device) : (d.takeBook).curBlock = d.curBlock := rfl
@[simp] theorem Device.takeBook_eccRes (d : Device) : (d.takeBook).eccRes = d.eccRes := rfl
@[simp] theorem Device.takeBook_chkOk (d : Device) : (d.takeBook).chkOk = d.chkOk := rfl
@[simp] theorem Device.takeBook_negT (d : Device) : (d.takeBook).negT = d.negT := rfl
@[simp] theorem Device.takeBook_negD (d : Device) : (d.takeBook).negD = d.negD := rfl
@[simp] theorem Device.takeBook_negForce (d : Device) : (d.takeBook).negForce = d.negForce := rfl
@[simp] theorem Device.takeBook_negPrio (d : Device) : (d.takeBook).negPrio = d.negPrio := rfl
@[simp] theorem Device.takeBook_negRounds (d : Device) : (d.takeBook).negRounds = d.negRounds := rfl
@[simp] theorem Device.takeBook_rxq (d : Device) : (d.takeBook).rxq = d.rxq := rfl
@[simp] theorem Device.takeBook_txq (d : Device) : (d.takeBook).txq = d.txq := rfl
@[simp] theorem Device.takeBook_flash (d : Device) : (d.takeBook).flash = d.flash := rfl
@[simp] theorem Device.takeBook_usage (d : Device) : (d.takeBook).usage = d.usage := rfl
@[simp] theorem Device.takeBook_flags (d : Device) : (d.takeBook).flags = d.flags := rfl

@[simp] theorem Device.goto_params (d : Device) (p : SeqPoint) : (d.goto p).params = d.params := rfl
@[simp] theorem Device.goto_usbHost (d : Device) (p : SeqPoint) : (d.goto p).usbHost = d.usbHost := rfl
@[simp] theorem Device.goto_readData (d : Device) (p : SeqPoint) : (d.goto p).readData = d.readData := rfl
@[simp] theorem Device.goto_seq (d : Device) (p : SeqPoint) : (d.goto p).seq = p := rfl
@[simp] theorem Device.goto_flashReq (d : Device) (p : SeqPoint) : (d.goto p).flashReq = d.flashReq := rfl
@[simp] theorem Device.goto_flashResult (d : Device) (p : SeqPoint) : (d.goto p).flashResult = d.flashResult := rfl
@[simp] theorem Device.goto_bookReq (d : Device) (p : SeqPoint) : (d.goto p).bookReq = d.bookReq := rfl
@[simp] theorem Device.goto_bookResult (d : Device) (p : SeqPoint) : (d.goto p).bookResult = d.bookResult := rfl
@[simp] theorem Device.goto_eccCode (d : Device) (p : SeqPoint) : (d.goto p).eccCode = d.eccCode := rfl
@[simp] theorem Device.goto_eccSyn (d : Device) (p : SeqPoint) : (d.goto p).eccSyn = d.eccSyn := rfl
@[simp] theorem Device.goto_err (d : Device) (p : SeqPoint) : (d.goto p).err = d.err := rfl
@[simp] theorem Device.goto_chksum (d : Device) (p : SeqPoint) : (d.goto p).chksum = d.chksum := rfl
@[simp] theorem Device.goto_acc (d : Device) (p : SeqPoint) : (d.goto p).acc = d.acc := rfl
@[simp] theorem Device.goto_rngArmed (d : Device) (p : SeqPoint) : (d.goto p).rngArmed = d.rngArmed := rfl
@[simp] theorem Device.goto_rngDone (d : Device) (p : SeqPoint) : (d.goto p).rngDone = d.rngDone := rfl
@[simp] theorem Device.goto_scount (d : Device) (p : SeqPoint) : (d.goto p).scount = d.scount := rfl
@[simp] theorem Device.goto_sel (d : Device) (p : SeqPoint) : (d.goto p).sel = d.sel := rfl
@[simp] theorem Device.goto_buf (d : Device) (p : SeqPoint) : (d.goto p).buf = d.buf := rfl
@[simp] theorem Device.goto_streamActive (d : Device) (p : SeqPoint) : (d.goto p).streamActive = d.streamActive := rfl
@[simp] theorem Device.goto_soff (d : Device) (p : SeqPoint) : (d.goto p).soff = d.soff := rfl
@[simp] theorem Device.goto_srem (d : Device) (p : SeqPoint) : (d.goto p).srem = d.srem := rfl
@[simp] theorem Device.goto_conn (d : Device) (p : SeqPoint) : (d.goto p).conn = d.conn := rfl
@[simp] theorem Device.goto_repl (d : Device) (p : SeqPoint) : (d.goto p).repl = d.repl := rfl
@[simp] theorem Device.goto_curBlock (d : Device) (p : SeqPoint) : (d.goto p).curBlock = d.curBlock := rfl
@[simp] theorem Device.goto_eccRes (d : Device) (p : SeqPoint) : (d.goto p).eccRes = d.eccRes := rfl
@[simp] theorem Device.goto_chkOk (d : Device) (p : SeqPoint) : (d.goto p).chkOk = d.chkOk := rfl
@[simp] theorem Device.goto_negT (d : Device) (p : SeqPoint) : (d.goto p).negT = d.negT := rfl
@[simp] theorem Device.goto_negD (d : Device) (p : SeqPoint) : (d.goto p).negD = d.negD := rfl
@[simp] theorem Device.goto_negForce (d : Device) (p : SeqPoint) : (d.goto p).negForce = d.negForce := rfl
@[simp] theorem Device.goto_negPrio (d : Device) (p : SeqPoint) : (d.goto p).negPrio = d.negPrio := rfl
@[simp] theorem Device.goto_negRounds (d : Device) (p : SeqPoint) : (d.goto p).negRounds = d.negRounds := rfl
@[simp] theorem Device.goto_rxq (d : Device) (p : SeqPoint) : (d.goto p).rxq = d.rxq := rfl
@[simp] theorem Device.goto_txq (d : Device) (p : SeqPoint) : (d.goto p).txq = d.txq := rfl
@[simp] theorem Device.goto_flash (d : Device) (p : SeqPoint) : (d.goto p).flash = d.flash := rfl
@[simp] theorem Device.goto_usage (d : Device) (p : SeqPoint) : (d.goto p).usage = d.usage := rfl
@[simp] theorem Device.goto_flags (d : Device) (p : SeqPoint) : (d.goto p).flags = d.flags := rfl

@[simp] theorem Device.setBufByte_params (d : Device) (p : Bool) (i : Nat) (v : Byte) : (d.setBufByte p i v).params = d.params := rfl
@[simp] theorem Device.setBufByte_usbHost (d : Device) (p : Bool) (i : Nat) (v : Byte) : (d.setBufByte p i v).usbHost = d.usbHost := rfl
@[simp] theorem Device.setBufByte_readData (d : Device) (p : Bool) (i : Nat) (v : Byte) : (d.setBufByte p i v).readData = d.readData := rfl
@[simp] theorem Device.setBufByte_seq (d : Device) (p : Bool) (i : Nat) (v : Byte) : (d.setBufByte p i v).seq = d.seq := rfl
@[simp] theorem Device.setBufByte_flashReq (d : Device) (p : Bool) (i : Nat) (v : Byte) : (d.setBufByte p i v).flashReq = d.flashReq := rfl
@[simp] theorem Device.setBufByte_flashResult (d : Device) (p : Bool) (i : Nat) (v : Byte) : (d.setBufByte p i v).flashResult = d.flashResult := rfl
@[simp] theorem Device.setBufByte_bookReq (d : Device) (p : Bool) (i : Nat) (v : Byte) : (d.setBufByte p i v).bookReq = d.bookReq := rfl
@[simp] theorem Device.setBufByte_bookResult (d : Device) (p : Bool) (i : Nat) (v : Byte) : (d.setBufByte p i v).bookResult = d.bookResult := rfl
@[simp] theorem Device.setBufByte_eccCode (d : Device) (p : Bool) (i : Nat) (v : Byte) : (d.setBufByte p i v).eccCode = d.eccCode := rfl
@[simp] theorem Device.setBufByte_eccSyn (d : Device) (p : Bool) (i : Nat) (v : Byte) : (d.setBufByte p i v).eccSyn = d.eccSyn := rfl
@[simp] theorem Device.setBufByte_err (d : Device) (p : Bool) (i : Nat) (v : Byte) : (d.setBufByte p i v).err = d.err := rfl
@[simp] theorem Device.setBufByte_chksum (d : Device) (p : Bool) (i : Nat) (v : Byte) : (d.setBufByte p i v).chksum = d.chksum := rfl
@[simp] theorem Device.setBufByte_acc (d : Device) (p : Bool) (i : Nat) (v : Byte) : (d.setBufByte p i v).acc = d.acc := rfl
@[simp] theorem Device.setBufByte_rngArmed (d : Device) (p : Bool) (i : Nat) (v : Byte) : (d.setBufByte p i v).rngArmed = d.rngArmed := rfl
@[simp] theorem Device.setBufByte_rngDone (d : Device) (p : Bool) (i : Nat) (v : Byte) : (d.setBufByte p i v).rngDone = d.rngDone := rfl
@[simp] theorem Device.setBufByte_scount (d : Device) (p : Bool) (i : Nat) (v : Byte) : (d.setBufByte p i v).scount = d.scount := rfl
@[simp] theorem Device.setBufByte_sel (d : Device) (p : Bool) (i : Nat) (v : Byte) : (d.setBufByte p i v).sel = d.sel := rfl
@[simp] theorem Device.setBufByte_buf (d : Device) (p : Bool) (i : Nat) (v : Byte) : (d.setBufByte p i v).buf = Memory.write .buffers d.buf (bufKey p i) v := rfl
@[simp] theorem Device.setBufByte_streamActive (d : Device) (p : Bool) (i : Nat) (v : Byte) : (d.setBufByte p i v).streamActive = d.streamActive := rfl
@[simp] theorem Device.setBufByte_soff (d : Device) (p : Bool) (i : Nat) (v : Byte) : (d.setBufByte p i v).soff = d.soff := rfl
@[simp] theorem Device.setBufByte_srem (d : Device) (p : Bool) (i : Nat) (v : Byte) : (d.setBufByte p i v).srem = d.srem := rfl
@[simp] theorem Device.setBufByte_conn (d : Device) (p : Bool) (i : Nat) (v : Byte) : (d.setBufByte p i v).conn = d.conn := rfl
@[simp] theorem Device.setBufByte_repl (d : Device) (p : Bool) (i : Nat) (v : Byte) : (d.setBufByte p i v).repl = d.repl := rfl
@[simp] theorem Device.setBufByte_curBlock (d : Device) (p : Bool) (i : Nat) (v : Byte) : (d.setBufByte p i v).curBlock = d.curBlock := rfl
@[simp] theorem Device.setBufByte_eccRes (d : Device) (p : Bool) (i : Nat) (v : Byte) : (d.setBufByte p i v).eccRes = d.eccRes := rfl
@[simp] theorem Device.setBufByte_chkOk (d : Device) (p : Bool) (i : Nat) (v : Byte) : (d.setBufByte p i v).chkOk = d.chkOk := rfl
@[simp] theorem Device.setBufByte_negT (d : Device) (p : Bool) (i : Nat) (v : Byte) : (d.setBufByte p i v).negT = d.negT := rfl
@[simp] theorem Device.setBufByte_negD (d : Device) (p : Bool) (i : Nat) (v : Byte) : (d.setBufByte p i v).negD = d.negD := rfl
@[simp] theorem Device.setBufByte_negForce (d : Device) (p : Bool) (i : Nat) (v : Byte) : (d.setBufByte p i v).negForce = d.negForce := rfl
@[simp] theorem Device.setBufByte_negPrio (d : Device) (p : Bool) (i : Nat) (v : Byte) : (d.setBufByte p i v).negPrio = d.negPrio := rfl
@[simp] theorem Device.setBufByte_negRounds (d : Device) (p : Bool) (i : Nat) (v : Byte) : (d.setBufByte p i v).negRounds = d.negRounds := rfl
@[simp] theorem Device.setBufByte_rxq (d : Device) (p : Bool) (i : Nat) (v : Byte) : (d.setBufByte p i v).rxq = d.rxq := rfl
@[simp] theorem Device.setBufByte_txq (d : Device) (p : Bool) (i : Nat) (v : Byte) : (d.setBufByte p i v).txq = d.txq := rfl
@[simp] theorem Device.setBufByte_flash (d : Device) (p : Bool) (i : Nat) (v : Byte) : (d.setBufByte p i v).flash = d.flash := rfl
@[simp] theorem Device.setBufByte_usage (d : Device) (p : Bool) (i : Nat) (v : Byte) : (d.setBufByte p i v).usage = d.usage := rfl
@[simp] theorem Device.setBufByte_flags (d : Device) (p : Bool) (i : Nat) (v : Byte) : (d.setBufByte p i v).flags = d.flags := rfl

@[simp] theorem Device.setBufBytes_params (d : Device) (p : Bool) (i : Nat) (bytes : List Byte) : (d.setBufBytes p i bytes).params = d.params := rfl
@[simp] theorem Device.setBufBytes_usbHost (d : Device) (p : Bool) (i : Nat) (bytes : List Byte) : (d.setBufBytes p i bytes).usbHost = d.usbHost := rfl
@[simp] theorem Device.setBufBytes_readData (d : Device) (p : Bool) (i : Nat) (bytes : List Byte) : (d.setBufBytes p i bytes).readData = d.readData := rfl
@[simp] theorem Device.setBufBytes_seq (d : Device) (p : Bool) (i : Nat) (bytes : List Byte) : (d.setBufBytes p i bytes).seq = d.seq := rfl
@[simp] theorem Device.setBufBytes_flashReq (d : Device) (p : Bool) (i : Nat) (bytes : List Byte) : (d.setBufBytes p i bytes).flashReq = d.flashReq := rfl
@[simp] theorem Device.setBufBytes_flashResult (d : Device) (p : Bool) (i : Nat) (bytes : List Byte) : (d.setBufBytes p i bytes).flashResult = d.flashResult := rfl
@[simp] theorem Device.setBufBytes_bookReq (d : Device) (p : Bool) (i : Nat) (bytes : List Byte) : (d.setBufBytes p i bytes).bookReq = d.bookReq := rfl
@[simp] theorem Device.setBufBytes_bookResult (d : Device) (p : Bool) (i : Nat) (bytes : List Byte) : (d.setBufBytes p i bytes).bookResult = d.bookResult := rfl
@[simp] theorem Device.setBufBytes_eccCode (d : Device) (p : Bool) (i : Nat) (bytes : List Byte) : (d.setBufBytes p i bytes).eccCode = d.eccCode := rfl
@[simp] theorem Device.setBufBytes_eccSyn (d : Device) (p : Bool) (i : Nat) (bytes : List Byte) : (d.setBufBytes p i bytes).eccSyn = d.eccSyn := rfl
@[simp] theorem Device.setBufBytes_err (d : Device) (p : Bool) (i : Nat) (bytes : List Byte) : (d.setBufBytes p i bytes).err = d.err := rfl
@[simp] theorem Device.setBufBytes_chksum (d : Device) (p : Bool) (i : Nat) (bytes : List Byte) : (d.setBufBytes p i bytes).chksum = d.chksum := rfl
@[simp] theorem Device.setBufBytes_acc (d : Device) (p : Bool) (i : Nat) (bytes : List Byte) : (d.setBufBytes p i bytes).acc = d.acc := rfl
@[simp] theorem Device.setBufBytes_rngArmed (d : Device) (p : Bool) (i : Nat) (bytes : List Byte) : (d.setBufBytes p i bytes).rngArmed = d.rngArmed := rfl
@[simp] theorem Device.setBufBytes_rngDone (d : Device) (p : Bool) (i : Nat) (bytes : List Byte) : (d.setBufBytes p i bytes).rngDone = d.rngDone := rfl
@[simp] theorem Device.setBufBytes_scount (d : Device) (p : Bool) (i : Nat) (bytes : List Byte) : (d.setBufBytes p i bytes).scount = d.scount := rfl
@[simp] theorem Device.setBufBytes_sel (d : Device) (p : Bool) (i : Nat) (bytes : List Byte) : (d.setBufBytes p i bytes).sel = d.sel := rfl
@[simp] theorem Device.setBufBytes_buf (d : Device) (p : Bool) (i : Nat) (bytes : List Byte) : (d.setBufBytes p i bytes).buf = Memory.writeBytes .buffers d.buf (bufKey p i) bytes := rfl
@[simp] theorem Device.setBufBytes_streamActive (d : Device) (p : Bool) (i : Nat) (bytes : List Byte) : (d.setBufBytes p i bytes).streamActive = d.streamActive := rfl
@[simp] theorem Device.setBufBytes_soff (d : Device) (p : Bool) (i : Nat) (bytes : List Byte) : (d.setBufBytes p i bytes).soff = d.soff := rfl
@[simp] theorem Device.setBufBytes_srem (d : Device) (p : Bool) (i : Nat) (bytes : List Byte) : (d.setBufBytes p i bytes).srem = d.srem := rfl
@[simp] theorem Device.setBufBytes_conn (d : Device) (p : Bool) (i : Nat) (bytes : List Byte) : (d.setBufBytes p i bytes).conn = d.conn := rfl
@[simp] theorem Device.setBufBytes_repl (d : Device) (p : Bool) (i : Nat) (bytes : List Byte) : (d.setBufBytes p i bytes).repl = d.repl := rfl
@[simp] theorem Device.setBufBytes_curBlock (d : Device) (p : Bool) (i : Nat) (bytes : List Byte) : (d.setBufBytes p i bytes).curBlock = d.curBlock := rfl
@[simp] theorem Device.setBufBytes_eccRes (d : Device) (p : Bool) (i : Nat) (bytes : List Byte) : (d.setBufBytes p i bytes).eccRes = d.eccRes := rfl
@[simp] theorem Device.setBufBytes_chkOk (d : Device) (p : Bool) (i : Nat) (bytes : List Byte) : (d.setBufBytes p i bytes).chkOk = d.chkOk := rfl
@[simp] theorem Device.setBufBytes_negT (d : Device) (p : Bool) (i : Nat) (bytes : List Byte) : (d.setBufBytes p i bytes).negT = d.negT := rfl
@[simp] theorem Device.setBufBytes_negD (d : Device) (p : Bool) (i : Nat) (bytes : List Byte) : (d.setBufBytes p i bytes).negD = d.negD := rfl
@[simp] theorem Device.setBufBytes_negForce (d : Device) (p : Bool) (i : Nat) (bytes : List Byte) : (d.setBufBytes p i bytes).negForce = d.negForce := rfl
@[simp] theorem Device.setBufBytes_negPrio (d : Device) (p : Bool) (i : Nat) (bytes : List Byte) : (d.setBufBytes p i bytes).negPrio = d.negPrio := rfl
@[simp] theorem Device.setBufBytes_negRounds (d : Device) (p : Bool) (i : Nat) (bytes : List Byte) : (d.setBufBytes p i bytes).negRounds = d.negRounds := rfl
@[simp] theorem Device.setBufBytes_rxq (d : Device) (p : Bool) (i : Nat) (bytes : List Byte) : (d.setBufBytes p i bytes).rxq = d.rxq := rfl
@[simp] theorem Device.setBufBytes_txq (d : Device) (p : Bool) (i : Nat) (bytes : List Byte) : (d.setBufBytes p i bytes).txq = d.txq := rfl
@[simp] theorem Device.setBufBytes_flash (d : Device) (p : Bool) (i : Nat) (bytes : List Byte) : (d.setBufBytes p i bytes).flash = d.flash := rfl
@[simp] theorem Device.setBufBytes_usage (d : Device) (p : Bool) (i : Nat) (bytes : List Byte) : (d.setBufBytes p i bytes).usage = d.usage := rfl
@[simp] theorem Device.setBufBytes_flags (d : Device) (p : Bool) (i : Nat) (bytes : List Byte) : (d.setBufBytes p i bytes).flags = d.flags := rfl

@[simp] theorem Device.setFlash_params (d : Device) (base n : Nat) (content : List Byte) : (d.setFlash base n content).params = d.params := rfl
@[simp] theorem Device.setFlash_usbHost (d : Device) (base n : Nat) (content : List Byte) : (d.setFlash base n content).usbHost = d.usbHost := rfl
@[simp] theorem Device.setFlash_readData (d : Device) (base n : Nat) (content : List Byte) : (d.setFlash base n content).readData = d.readData := rfl
@[simp] theorem Device.setFlash_seq (d : Device) (base n : Nat) (content : List Byte) : (d.setFlash base n content).seq = d.seq := rfl
@[simp] theorem Device.setFlash_flashReq (d : Device) (base n : Nat) (content : List Byte) : (d.setFlash base n content).flashReq = d.flashReq := rfl
@[simp] theorem Device.setFlash_flashResult (d : Device) (base n : Nat) (content : List Byte) : (d.setFlash base n content).flashResult = d.flashResult := rfl
@[simp] theorem Device.setFlash_bookReq (d : Device) (base n : Nat) (content : List Byte) : (d.setFlash base n content).bookReq = d.bookReq := rfl
@[simp] theorem Device.setFlash_bookResult (d : Device) (base n : Nat) (content : List Byte) : (d.setFlash base n content).bookResult = d.bookResult := rfl
@[simp] theorem Device.setFlash_eccCode (d : Device) (base n : Nat) (content : List Byte) : (d.setFlash base n content).eccCode = d.eccCode := rfl
@[simp] theorem Device.setFlash_eccSyn (d : Device) (base n : Nat) (content : List Byte) : (d.setFlash base n content).eccSyn = d.eccSyn := rfl
@[simp] theorem Device.setFlash_err (d : Device) (base n : Nat) (content : List Byte) : (d.setFlash base n content).err = d.err := rfl
@[simp] theorem Device.setFlash_chksum (d : Device) (base n : Nat) (content : List Byte) : (d.setFlash base n content).chksum = d.chksum := rfl
@[simp] theorem Device.setFlash_acc (d : Device) (base n : Nat) (content : List Byte) : (d.setFlash base n content).acc = d.acc := rfl
@[simp] theorem Device.setFlash_rngArmed (d : Device) (base n : Nat) (content : List Byte) : (d.setFlash base n content).rngArmed = d.rngArmed := rfl
@[simp] theorem Device.setFlash_rngDone (d : Device) (base n : Nat) (content : List Byte) : (d.setFlash base n content).rngDone = d.rngDone := rfl
@[simp] theorem Device.setFlash_scount (d : Device) (base n : Nat) (content : List Byte) : (d.setFlash base n content).scount = d.scount := rfl
@[simp] theorem Device.setFlash_sel (d : Device) (base n : Nat) (content : List Byte) : (d.setFlash base n content).sel = d.sel := rfl
@[simp] theorem Device.setFlash_buf (d : Device) (base n : Nat) (content : List Byte) : (d.setFlash base n content).buf = d.buf := rfl
@[simp] theorem Device.setFlash_streamActive (d : Device) (base n : Nat) (content : List Byte) : (d.setFlash base n content).streamActive = d.streamActive := rfl
@[simp] theorem Device.setFlash_soff (d : Device) (base n : Nat) (content : List Byte) : (d.setFlash base n content).soff = d.soff := rfl
@[simp] theorem Device.setFlash_srem (d : Device) (base n : Nat) (content : List Byte) : (d.setFlash base n content).srem = d.srem := rfl
@[simp] theorem Device.setFlash_conn (d : Device) (base n : Nat) (content : List Byte) : (d.setFlash base n content).conn = d.conn := rfl
@[simp] theorem Device.setFlash_repl (d : Device) (base n : Nat) (content : List Byte) : (d.setFlash base n content).repl = d.repl := rfl
@[simp] theorem Device.setFlash_curBlock (d : Device) (base n : Nat) (content : List Byte) : (d.setFlash base n content).curBlock = d.curBlock := rfl
@[simp] theorem Device.setFlash_eccRes (d : Device) (base n : Nat) (content : List Byte) : (d.setFlash base n content).eccRes = d.eccRes := rfl
@[simp] theorem Device.setFlash_chkOk (d : Device) (base n : Nat) (content : List Byte) : (d.setFlash base n content).chkOk = d.chkOk := rfl
@[simp] theorem Device.setFlash_negT (d : Device) (base n : Nat) (content : List Byte) : (d.setFlash base n content).negT = d.negT := rfl
@[simp] theorem Device.setFlash_negD (d : Device) (base n : Nat) (content : List Byte) : (d.setFlash base n content).negD = d.negD := rfl
@[simp] theorem Device.setFlash_negForce (d : Device) (base n : Nat) (content : List Byte) : (d.setFlash base n content).negForce = d.negForce := rfl
@[simp] theorem Device.setFlash_negPrio (d : Device) (base n : Nat) (content : List Byte) : (d.setFlash base n content).negPrio = d.negPrio := rfl
@[simp] theorem Device.setFlash_negRounds (d : Device) (base n : Nat) (content : List Byte) : (d.setFlash base n content).negRounds = d.negRounds := rfl
@[simp] theorem Device.setFlash_rxq (d : Device) (base n : Nat) (content : List Byte) : (d.setFlash base n content).rxq = d.rxq := rfl
@[simp] theorem Device.setFlash_txq (d : Device) (base n : Nat) (content : List Byte) : (d.setFlash base n content).txq = d.txq := rfl
@[simp] theorem Device.setFlash_flash (d : Device) (base n : Nat) (content : List Byte) : (d.setFlash base n content).flash = Memory.writeBytes .flash (Memory.clearBytes d.flash base n) base (content.take n) := rfl
@[simp] theorem Device.setFlash_usage (d : Device) (base n : Nat) (content : List Byte) : (d.setFlash base n content).usage = d.usage := rfl
@[simp] theorem Device.setFlash_flags (d : Device) (base n : Nat) (content : List Byte) : (d.setFlash base n content).flags = d.flags := rfl

@[simp] theorem Device.setBlockStatus_params (d : Device) (b : Nat) (x : BlockStatus) : (d.setBlockStatus b x).params = d.params := rfl
@[simp] theorem Device.setBlockStatus_usbHost (d : Device) (b : Nat) (x : BlockStatus) : (d.setBlockStatus b x).usbHost = d.usbHost := rfl
@[simp] theorem Device.setBlockStatus_readData (d : Device) (b : Nat) (x : BlockStatus) : (d.setBlockStatus b x).readData = d.readData := rfl
@[simp] theorem Device.setBlockStatus_seq (d : Device) (b : Nat) (x : BlockStatus) : (d.setBlockStatus b x).seq = d.seq := rfl
@[simp] theorem Device.setBlockStatus_flashReq (d : Device) (b : Nat) (x : BlockStatus) : (d.setBlockStatus b x).flashReq = d.flashReq := rfl
@[simp] theorem Device.setBlockStatus_flashResult (d : Device) (b : Nat) (x : BlockStatus) : (d.setBlockStatus b x).flashResult = d.flashResult := rfl
@[simp] theorem Device.setBlockStatus_bookReq (d : Device) (b : Nat) (x : BlockStatus) : (d.setBlockStatus b x).bookReq = d.bookReq := rfl
@[simp] theorem Device.setBlockStatus_bookResult (d : Device) (b : Nat) (x : BlockStatus) : (d.setBlockStatus b x).bookResult = d.bookResult := rfl
@[simp] theorem Device.setBlockStatus_eccCode (d : Device) (b : Nat) (x : BlockStatus) : (d.setBlockStatus b x).eccCode = d.eccCode := rfl
@[simp] theorem Device.setBlockStatus_eccSyn (d : Device) (b : Nat) (x : BlockStatus) : (d.setBlockStatus b x).eccSyn = d.eccSyn := rfl
@[simp] theorem Device.setBlockStatus_err (d : Device) (b : Nat) (x : BlockStatus) : (d.setBlockStatus b x).err = d.err := rfl
@[simp] theorem Device.setBlockStatus_chksum (d : Device) (b : Nat) (x : BlockStatus) : (d.setBlockStatus b x).chksum = d.chksum := rfl
@[simp] theorem Device.setBlockStatus_acc (d : Device) (b : Nat) (x : BlockStatus) : (d.setBlockStatus b x).acc = d.acc := rfl
@[simp] theorem Device.setBlockStatus_rngArmed (d : Device) (b : Nat) (x : BlockStatus) : (d.setBlockStatus b x).rngArmed = d.rngArmed := rfl
@[simp] theorem Device.setBlockStatus_rngDone (d : Device) (b : Nat) (x : BlockStatus) : (d.setBlockStatus b x).rngDone = d.rngDone := rfl
@[simp] theorem Device.setBlockStatus_scount (d : Device) (b : Nat) (x : BlockStatus) : (d.setBlockStatus b x).scount = d.scount := rfl
@[simp] theorem Device.setBlockStatus_sel (d : Device) (b : Nat) (x : BlockStatus) : (d.setBlockStatus b x).sel = d.sel := rfl
@[simp] theorem Device.setBlockStatus_buf (d : Device) (b : Nat) (x : BlockStatus) : (d.setBlockStatus b x).buf = d.buf := rfl
@[simp] theorem Device.setBlockStatus_streamActive (d : Device) (b : Nat) (x : BlockStatus) : (d.setBlockStatus b x).streamActive = d.streamActive := rfl
@[simp] theorem Device.setBlockStatus_soff (d : Device) (b : Nat) (x : BlockStatus) : (d.setBlockStatus b x).soff = d.soff := rfl
@[simp] theorem Device.setBlockStatus_srem (d : Device) (b : Nat) (x : BlockStatus) : (d.setBlockStatus b x).srem = d.srem := rfl
@[simp] theorem Device.setBlockStatus_conn (d : Device) (b : Nat) (x : BlockStatus) : (d.setBlockStatus b x).conn = d.conn := rfl
@[simp] theorem Device.setBlockStatus_repl (d : Device) (b : Nat) (x : BlockStatus) : (d.setBlockStatus b x).repl = d.repl := rfl
@[simp] theorem Device.setBlockStatus_curBlock (d : Device) (b : Nat) (x : BlockStatus) : (d.setBlockStatus b x).curBlock = d.curBlock := rfl
@[simp] theorem Device.setBlockStatus_eccRes (d : Device) (b : Nat) (x : BlockStatus) : (d.setBlockStatus b x).eccRes = d.eccRes := rfl
@[simp] theorem Device.setBlockStatus_chkOk (d : Device) (b : Nat) (x : BlockStatus) : (d.setBlockStatus b x).chkOk = d.chkOk := rfl
@[simp] theorem Device.setBlockStatus_negT (d : Device) (b : Nat) (x : BlockStatus) : (d.setBlockStatus b x).negT = d.negT := rfl
@[simp] theorem Device.setBlockStatus_negD (d : Device) (b : Nat) (x : BlockStatus) : (d.setBlockStatus b x).negD = d.negD := rfl
@[simp] theorem Device.setBlockStatus_negForce (d : Device) (b : Nat) (x : BlockStatus) : (d.setBlockStatus b x).negForce = d.negForce := rfl
@[simp] theorem Device.setBlockStatus_negPrio (d : Device) (b : Nat) (x : BlockStatus) : (d.setBlockStatus b x).negPrio = d.negPrio := rfl
@[simp] theorem Device.setBlockStatus_negRounds (d : Device) (b : Nat) (x : BlockStatus) : (d.setBlockStatus b x).negRounds = d.negRounds := rfl
@[simp] theorem Device.setBlockStatus_rxq (d : Device) (b : Nat) (x : BlockStatus) : (d.setBlockStatus b x).rxq = d.rxq := rfl
@[simp] theorem Device.setBlockStatus_txq (d : Device) (b : Nat) (x : BlockStatus) : (d.setBlockStatus b x).txq = d.txq := rfl
@[simp] theorem Device.setBlockStatus_flash (d : Device) (b : Nat) (x : BlockStatus) : (d.setBlockStatus b x).flash = d.flash := rfl
@[simp] theorem Device.setBlockStatus_usage (d : Device) (b : Nat) (x : BlockStatus) : (d.setBlockStatus b x).usage = Sparse.write unlistedStatus d.usage b x := rfl
@[simp] theorem Device.setBlockStatus_flags (d : Device) (b : Nat) (x : BlockStatus) : (d.setBlockStatus b x).flags = d.flags := rfl

@[simp] theorem Device.setAcc_params (d : Device) (k : Nat) (v : Half) : (d.setAcc k v).params = d.params := rfl
@[simp] theorem Device.setAcc_usbHost (d : Device) (k : Nat) (v : Half) : (d.setAcc k v).usbHost = d.usbHost := rfl
@[simp] theorem Device.setAcc_readData (d : Device) (k : Nat) (v : Half) : (d.setAcc k v).readData = d.readData := rfl
@[simp] theorem Device.setAcc_seq (d : Device) (k : Nat) (v : Half) : (d.setAcc k v).seq = d.seq := rfl
@[simp] theorem Device.setAcc_flashReq (d : Device) (k : Nat) (v : Half) : (d.setAcc k v).flashReq = d.flashReq := rfl
@[simp] theorem Device.setAcc_flashResult (d : Device) (k : Nat) (v : Half) : (d.setAcc k v).flashResult = d.flashResult := rfl
@[simp] theorem Device.setAcc_bookReq (d : Device) (k : Nat) (v : Half) : (d.setAcc k v).bookReq = d.bookReq := rfl
@[simp] theorem Device.setAcc_bookResult (d : Device) (k : Nat) (v : Half) : (d.setAcc k v).bookResult = d.bookResult := rfl
@[simp] theorem Device.setAcc_eccCode (d : Device) (k : Nat) (v : Half) : (d.setAcc k v).eccCode = d.eccCode := rfl
@[simp] theorem Device.setAcc_eccSyn (d : Device) (k : Nat) (v : Half) : (d.setAcc k v).eccSyn = d.eccSyn := rfl
@[simp] theorem Device.setAcc_err (d : Device) (k : Nat) (v : Half) : (d.setAcc k v).err = d.err := rfl
@[simp] theorem Device.setAcc_chksum (d : Device) (k : Nat) (v : Half) : (d.setAcc k v).chksum = d.chksum := rfl
@[simp] theorem Device.setAcc_acc (d : Device) (k : Nat) (v : Half) : (d.setAcc k v).acc = d.acc.setIfInBounds k v := rfl
@[simp] theorem Device.setAcc_rngArmed (d : Device) (k : Nat) (v : Half) : (d.setAcc k v).rngArmed = d.rngArmed := rfl
@[simp] theorem Device.setAcc_rngDone (d : Device) (k : Nat) (v : Half) : (d.setAcc k v).rngDone = d.rngDone := rfl
@[simp] theorem Device.setAcc_scount (d : Device) (k : Nat) (v : Half) : (d.setAcc k v).scount = d.scount := rfl
@[simp] theorem Device.setAcc_sel (d : Device) (k : Nat) (v : Half) : (d.setAcc k v).sel = d.sel := rfl
@[simp] theorem Device.setAcc_buf (d : Device) (k : Nat) (v : Half) : (d.setAcc k v).buf = d.buf := rfl
@[simp] theorem Device.setAcc_streamActive (d : Device) (k : Nat) (v : Half) : (d.setAcc k v).streamActive = d.streamActive := rfl
@[simp] theorem Device.setAcc_soff (d : Device) (k : Nat) (v : Half) : (d.setAcc k v).soff = d.soff := rfl
@[simp] theorem Device.setAcc_srem (d : Device) (k : Nat) (v : Half) : (d.setAcc k v).srem = d.srem := rfl
@[simp] theorem Device.setAcc_conn (d : Device) (k : Nat) (v : Half) : (d.setAcc k v).conn = d.conn := rfl
@[simp] theorem Device.setAcc_repl (d : Device) (k : Nat) (v : Half) : (d.setAcc k v).repl = d.repl := rfl
@[simp] theorem Device.setAcc_curBlock (d : Device) (k : Nat) (v : Half) : (d.setAcc k v).curBlock = d.curBlock := rfl
@[simp] theorem Device.setAcc_eccRes (d : Device) (k : Nat) (v : Half) : (d.setAcc k v).eccRes = d.eccRes := rfl
@[simp] theorem Device.setAcc_chkOk (d : Device) (k : Nat) (v : Half) : (d.setAcc k v).chkOk = d.chkOk := rfl
@[simp] theorem Device.setAcc_negT (d : Device) (k : Nat) (v : Half) : (d.setAcc k v).negT = d.negT := rfl
@[simp] theorem Device.setAcc_negD (d : Device) (k : Nat) (v : Half) : (d.setAcc k v).negD = d.negD := rfl
@[simp] theorem Device.setAcc_negForce (d : Device) (k : Nat) (v : Half) : (d.setAcc k v).negForce = d.negForce := rfl
@[simp] theorem Device.setAcc_negPrio (d : Device) (k : Nat) (v : Half) : (d.setAcc k v).negPrio = d.negPrio := rfl
@[simp] theorem Device.setAcc_negRounds (d : Device) (k : Nat) (v : Half) : (d.setAcc k v).negRounds = d.negRounds := rfl
@[simp] theorem Device.setAcc_rxq (d : Device) (k : Nat) (v : Half) : (d.setAcc k v).rxq = d.rxq := rfl
@[simp] theorem Device.setAcc_txq (d : Device) (k : Nat) (v : Half) : (d.setAcc k v).txq = d.txq := rfl
@[simp] theorem Device.setAcc_flash (d : Device) (k : Nat) (v : Half) : (d.setAcc k v).flash = d.flash := rfl
@[simp] theorem Device.setAcc_usage (d : Device) (k : Nat) (v : Half) : (d.setAcc k v).usage = d.usage := rfl
@[simp] theorem Device.setAcc_flags (d : Device) (k : Nat) (v : Half) : (d.setAcc k v).flags = d.flags := rfl

end Sys2Proof.Machine
end

