-- ==== Sys2Proof/Laws/Ops.lean ====
section
/-! SUPPORT. For each shared operation, once, everything it can do; and the one list of what a step can do to a device. -/

namespace Sys2Proof.Machine

/-- The four ways a decoded command other than NOP goes (30_encoding.md R124, 60_exceptions.md R344). -/
theorem Device.issue_cases (d : Device) (inRange : Bool) (own : Option ErrBit) (effect : Device) :
    (d.busy = true ∧ d.issue inRange own effect = d.raise .busy) ∨
    (d.busy = false ∧ inRange = false ∧ d.issue inRange own effect = d.raise .badArg) ∨
    (∃ e, d.busy = false ∧ inRange = true ∧ own = some e ∧ d.issue inRange own effect = d.raise e) ∨
    (d.busy = false ∧ inRange = true ∧ own = none ∧ d.issue inRange own effect = effect) := by
  unfold Device.issue
  cases d.busy <;> cases inRange <;> cases own <;> simp

/-- A refused word raises exactly one error bit (60_exceptions.md R344). -/
theorem Device.rejectCommand_cases (d : Device) (r : Reject) :
    d.rejectCommand r = d.raise .illegalCmd ∨ d.rejectCommand r = d.raise .busy ∨
      d.rejectCommand r = d.raise .badArg := by
  cases r with
  | illegalOpcode op => exact .inl rfl
  | reservedBits op =>
    simp only [Device.rejectCommand]
    split
    · exact .inr (.inl rfl)
    · exact .inr (.inr rfl)

/-- `Recv()` takes the head of RXQ or waits (00_scope.md R14). -/
theorem Device.recv_cases (d : Device) :
    (d.rxq = [] ∧ d.recv = none) ∨ ∃ x rest, d.rxq = x :: rest ∧ d.recv = some (x, { d with rxq := rest }) := by
  unfold Device.recv
  cases d.rxq with
  | nil => exact .inl ⟨rfl, rfl⟩
  | cons x rest => exact .inr ⟨x, rest, rfl, rfl⟩

theorem Device.recv_some {d d1 : Device} {x : Byte} (h : d.recv = some (x, d1)) :
    ∃ rest, d.rxq = x :: rest ∧ d1 = { d with rxq := rest } := by
  rcases d.recv_cases with ⟨_, hn⟩ | ⟨y, rest, hq, hs⟩
  · rw [hn] at h; cases h
  · rw [hs] at h; cases h; exact ⟨rest, hq, rfl⟩

theorem Device.recv_none {d : Device} (h : d.recv = none) : d.rxq = [] := by
  rcases d.recv_cases with ⟨hq, _⟩ | ⟨y, rest, _, hs⟩
  · exact hq
  · rw [hs] at h; cases h

/-- The ways a stream error can go. -/
theorem Device.whileStreaming_eq_none {d : Device} {e : ErrBit} (h : d.whileStreaming e = none) :
    d.streamActive = false := by
  unfold Device.whileStreaming at h
  split at h
  · cases h
  · simpa using ‹¬ d.streamActive = true›

theorem Device.busy_eq_false {d : Device} (h : d.busy = false) : d.seq = .idle := by
  unfold Device.busy at h
  cases hs : d.seq <;> simp [hs, SeqPoint.phase] at h ⊢

/-- What `correctBuf` can do: nothing, or flip one bit of one data byte (40_ecc.md R169). -/
theorem Device.correctBuf_cases (d : Device) (p : Bool) (syn : BitVec 25) :
    (eccDispatch syn ≠ .corrected ∧ d.correctBuf p syn = d) ∨
    (eccDispatch syn = .corrected ∧ synByte syn < 512 ∧ d.correctBuf p syn =
      d.setBufByte p (synByte syn) (d.bufByte p (synByte syn) ^^^ (1#8 <<< synBit syn))) := by
  unfold Device.correctBuf
  split
  · next h => exact .inr ⟨h, by unfold synByte; omega, rfl⟩
  · next h => exact .inl ⟨h, rfl⟩

/-- Everything one step of an agent can do to its device (00_scope.md R8), with what holds when it does. -/
inductive DeviceMove (d : Device) : Device → Prop where
  | same : DeviceMove d d
  | error (e : ErrBit) : DeviceMove d (d.raise e)
  | eccGen (r : Role) (h : d.busy = false) (ho : d.eccOwnError r = none) : DeviceMove d (d.eccGenEffect r)
  | eccVerify (r : Role) (h : d.busy = false) (ho : d.eccOwnError r = none) : DeviceMove d (d.eccVerifyEffect r)
  | startCycle (h : d.busy = false) (hs : d.streamActive = false) : DeviceMove d d.startCycle
  | startStream (off len : BitVec 10) (h : d.busy = false) (hs : d.streamActive = false)
      (hr : off.toNat + len.toNat ≤ 528) : DeviceMove d (d.bitsStartEffect off len)
  | swap (h : d.busy = false) (hs : d.streamActive = false) : DeviceMove d d.swapBuffers
  | negotiate (f : Bool) (h : d.busy = false) (hs : d.streamActive = false) : DeviceMove d (d.negotiateEffect f)
  | replicate (h : d.busy = false) (hc : d.conn = .single ∨ d.conn = .twinnedMaster) :
      DeviceMove d d.replicateEffect
  | checksum (b : Half) (h : d.busy = false) (hb : 1 ≤ b.toNat ∧ b.toNat < d.params.blockCount) :
      DeviceMove d (d.blockChecksumEffect b)
  | readData (v : Word) : DeviceMove d { d with readData := v }
  | readError : DeviceMove d { d.raise .access with readData := 0 }
  | window (p : Bool) (i : Nat) (v : Byte) (h : d.busy = false) (hi : i < 528) : DeviceMove d (d.setBufByte p i v)
  | eccCode (v : Word) : DeviceMove d { d with eccCode := v }
  | clearErr (v : Word) : DeviceMove d (d.clearErr v)
  | seq : DeviceMove d d.seqStep
  | adc (s : Half) : DeviceMove d (d.adcStep s)
  | timer : DeviceMove d d.timerStep
  | receive (x : Byte) : DeviceMove d (d.receive x)
  | transmit (e : TxEntry) (rest : List TxEntry) (h : d.txq = e :: rest) : DeviceMove d { d with txq := rest }
  | flash (ok : Bool) (content : List Byte) : DeviceMove d (d.flashStep ok content)
  | book : DeviceMove d d.bookStep
  | reset (draw : ResetDraw) : DeviceMove d (d.resetStep draw)
  | pin (level : Bool) : DeviceMove d { d with usbHost := level }

theorem Device.issue_move {d effect : Device} {inRange : Bool} {own : Option ErrBit}
    (h : d.busy = false → inRange = true → own = none → DeviceMove d effect) :
    DeviceMove d (d.issue inRange own effect) := by
  rcases d.issue_cases inRange own effect with ⟨_, e⟩ | ⟨_, _, e⟩ | ⟨b, _, _, _, e⟩ | ⟨h1, h2, h3, e⟩ <;> rw [e]
  · exact .error _
  · exact .error _
  · exact .error _
  · exact h h1 h2 h3

/-- A command's meaning always answers a next state and moves only this device. -/
theorem exec_move (i : Instr) (s : State) :
    ∃ d, exec i s = .next (s.withDev d) ∧ DeviceMove s.dev d := by
  cases i with
  | nop => exact ⟨s.dev, rfl, .same⟩
  | eccGen r => exact ⟨_, rfl, Device.issue_move fun h _ ho => .eccGen r h ho⟩
  | eccVerify r => exact ⟨_, rfl, Device.issue_move fun h _ ho => .eccVerify r h ho⟩
  | rngStart => exact ⟨_, rfl, Device.issue_move fun h _ ho => .startCycle h (Device.whileStreaming_eq_none ho)⟩
  | rngBitsStart off len =>
    exact ⟨_, rfl, Device.issue_move fun h hr ho =>
      .startStream off len h (Device.whileStreaming_eq_none ho) (by simpa [Device.inRange, streamInRange] using hr)⟩
  | bufSwap => exact ⟨_, rfl, Device.issue_move fun h _ ho => .swap h (Device.whileStreaming_eq_none ho)⟩
  | twinNegotiate f =>
    exact ⟨_, rfl, Device.issue_move fun h _ ho => .negotiate f h (Device.whileStreaming_eq_none ho)⟩
  | twinReplicate =>
    exact ⟨_, rfl, Device.issue_move fun h _ ho => .replicate h (by
      unfold Device.roleError at ho; split at ho
      · assumption
      · cases ho)⟩
  | blockChecksum b =>
    exact ⟨_, rfl, Device.issue_move fun h hr _ => .checksum b h (by
      simpa [Device.inRange, Device.validBlock] using hr)⟩

theorem issueCommand_move (w : Word) (s : State) :
    ∃ d, issueCommand w s = .next (s.withDev d) ∧ DeviceMove s.dev d := by
  unfold issueCommand
  split
  · exact exec_move _ s
  · next r _ =>
    refine ⟨_, rfl, ?_⟩
    rcases s.dev.rejectCommand_cases r with h | h | h <;> rw [h] <;> exact .error _

/-- Above the registers the map is the two windows and reserved offsets (30_encoding.md R120). -/
theorem targetAt_high {n : Nat} (h : 0x30 ≤ n) :
    targetAt n = if 0x400 ≤ n ∧ n ≤ 0x60F then .nandWindow (n - 0x400)
      else if 0x800 ≤ n ∧ n ≤ 0xA0F then .rngWindow (n - 0x800) else .reserved := by
  unfold targetAt
  iterate 11 rw [if_neg (by omega)]

/-- The row of a window offset has an index below 528 (30_encoding.md R120). -/
theorem targetOf_window (a : Offset) :
    (∀ i, targetOf a = .nandWindow i → i < 528) ∧ (∀ i, targetOf a = .rngWindow i → i < 528) := by
  unfold targetOf
  generalize a.toNat = n
  rcases Nat.lt_or_ge n 0x30 with hn | hn
  · have h : (match targetAt n with | .nandWindow _ => false | .rngWindow _ => false | _ => true) = true := by
      revert n; decide
    constructor <;> intro i hi <;> rw [hi] at h <;> cases h
  · rw [targetAt_high hn]
    constructor <;> intro i h
    · split at h
      · injection h; omega
      · split at h <;> cases h
    · split at h
      · cases h
      · split at h
        · injection h; omega
        · cases h

theorem hostStep_move (acc : Access) (s : State) :
    ∃ d, hostStep acc s = .next (s.withDev d) ∧ DeviceMove s.dev d := by
  cases acc with
  | read a n =>
    refine ⟨_, rfl, ?_⟩
    unfold Device.mmioRead
    split
    · exact .readData _
    · exact .readError
  | write8 a v =>
    refine ⟨_, rfl, ?_⟩
    unfold Device.mmioWrite8
    split
    · split
      · next i hi =>
        unfold Device.writeNand
        split
        · exact .error _
        · next hb => exact .window _ _ _ (by simpa using hb) ((targetOf_window a).1 i hi)
      · next i hi =>
        unfold Device.writeRng
        split
        · exact .error _
        · next hb =>
          split
          · exact .error _
          · exact .window _ _ _ (by simpa using hb) ((targetOf_window a).2 i hi)
      · exact .same
    · exact .error _
  | write32 a v =>
    simp only [hostStep]
    split
    · exact issueCommand_move v s
    · refine ⟨_, rfl, ?_⟩
      unfold Device.mmioWrite32
      split
      · split
        · exact .eccCode v
        · exact .clearErr v
        · exact .same
      · exact .error _

/-- What one step of an agent of this device can do: it always answers a next state, it moves this device by one
`DeviceMove`, and it leaves the twin and the model's own fields alone. -/
theorem act_move (a : Action) (s : State) :
    ∃ t, act a s = .next t ∧ DeviceMove s.dev t.dev ∧ t.twin = s.twin ∧ t.pending = s.pending ∧
      t.eventCount = s.eventCount := by
  cases a with
  | host acc =>
    obtain ⟨d, h, m⟩ := hostStep_move acc s
    exact ⟨_, h, m, rfl, rfl, rfl⟩
  | seq => exact ⟨_, rfl, .seq, rfl, rfl, rfl⟩
  | adc x => exact ⟨_, rfl, .adc x, rfl, rfl, rfl⟩
  | timer => exact ⟨_, rfl, .timer, rfl, rfl, rfl⟩
  | uartRx =>
    refine ⟨_, rfl, ?_⟩
    unfold State.uartRxStep
    split
    · exact ⟨.same, rfl, rfl, rfl⟩
    · exact ⟨.receive _, rfl, rfl, rfl⟩
  | uartTx =>
    refine ⟨_, rfl, ?_⟩
    unfold State.uartTxStep
    split
    · exact ⟨.same, rfl, rfl, rfl⟩
    · next h => exact ⟨.transmit _ _ h, rfl, rfl, rfl⟩
  | flash ok c => exact ⟨_, rfl, .flash ok c, rfl, rfl, rfl⟩
  | book => exact ⟨_, rfl, .book, rfl, rfl, rfl⟩
  | reset r => exact ⟨_, rfl, .reset r, rfl, rfl, rfl⟩
  | usbHost l => exact ⟨_, rfl, .pin l, rfl, rfl, rfl⟩

/-- A property every move of a device keeps is kept by every step, of this device and of the twin. -/
theorem step_keeps_each {P : Device → Prop} (keep : ∀ d d', DeviceMove d d' → P d → P d') (s t : State)
    (h : step s = .next t) (hs : s.each P) : t.each P := by
  have hn : s.nextEvent.2.each P := by
    unfold State.nextEvent; split <;> exact hs
  unfold step perform at h
  generalize s.nextEvent.2 = s' at h hn
  generalize s.nextEvent.1 = e at h
  split at h
  · obtain ⟨t', h', m, ht, _⟩ := act_move e.action s'
    rw [h'] at h; cases h
    exact ⟨keep _ _ m hn.1, by rw [ht]; exact hn.2⟩
  · split at h
    · cases h; exact hn
    · next td htd =>
      obtain ⟨t', h', m, ht, _⟩ := act_move e.action s'.swapSides
      rw [h'] at h; simp only [mapNext] at h; cases h
      have hsw : s'.swapSides = { s' with dev := td, twin := some s'.dev, lineOut := s'.lineIn, lineIn := s'.lineOut } := by
        unfold State.swapSides; rw [htd]
      rw [hsw] at m ht
      have hst : t'.swapSides = { t' with dev := s'.dev, twin := some t'.dev, lineOut := t'.lineIn, lineIn := t'.lineOut } := by
        unfold State.swapSides; rw [ht]
      rw [hst]
      refine ⟨hn.1, ?_⟩
      intro x hx; cases hx
      exact keep _ _ m (hn.2 td htd)

/-! ### What writing the spare, storing a payload byte and dropping a request do -/

theorem spareImage_length (code : Word) : (spareImage code).length = 16 := rfl

/-- Writing the spare changes the nand buffer's last 16 bytes to the spare image of its data's code (20_memory.md R87). -/
theorem Device.read_writeSpare (d : Device) (a : Nat) :
    Memory.read .buffers d.writeSpare.buf a =
      if bufKey d.sel 512 ≤ a ∧ a < bufKey d.sel 528
      then (spareImage (eccGen (d.bufData d.sel))).getD (a - bufKey d.sel 512) 0
      else Memory.read .buffers d.buf a := by
  have h : bufKey d.sel 528 = bufKey d.sel 512 + (spareImage (eccGen (d.bufData d.sel))).length := by
    rw [spareImage_length]; unfold bufKey; omega
  rw [h]
  exact Memory.read_writeBytes .buffers _ d.buf _ a

/-- Writing the spare leaves the data of the nand buffer. -/
theorem Device.bufByte_writeSpare (d : Device) (i : Nat) (h : i < 512) :
    d.writeSpare.bufByte d.sel i = d.bufByte d.sel i := by
  have hk : ¬ (bufKey d.sel 512 ≤ bufKey d.sel i ∧ bufKey d.sel i < bufKey d.sel 528) := by unfold bufKey; omega
  exact (Device.read_writeSpare d (bufKey d.sel i)).trans (if_neg hk)

/-- The paragraph in the nand buffer after the spare is written: its data, then the spare image (43_twin_replication.md
R266). -/
theorem Device.bufPara_writeSpare (d : Device) :
    d.writeSpare.bufPara d.sel =
      (List.range 512).map (fun i => d.bufByte d.sel i) ++ spareImage (eccGen (d.bufData d.sel)) := by
  have split528 : List.range 528 = List.range 512 ++ (List.range 16).map (512 + ·) := List.range_add (n := 512) (m := 16)
  have spare : ∀ l : List Byte, l.length = 16 → (List.range 16).map (fun i => l.getD i 0) = l := by
    intro l hl
    apply List.ext_getElem
    · simp [hl]
    · intro i h1 h2
      simp [h2]
  rw [Device.bufPara, Memory.readBytes, split528, List.map_append, List.map_map,
    ← spare (spareImage (eccGen (d.bufData d.sel))) rfl]
  refine congrArg₂ (· ++ ·) ?_ ?_
  · refine List.map_congr_left fun i hi => ?_
    exact Device.bufByte_writeSpare d i (List.mem_range.mp hi)
  · refine List.map_congr_left fun i hi => ?_
    have hi' := List.mem_range.mp hi
    have hr : bufKey d.sel 512 ≤ bufKey d.sel 0 + (512 + i) ∧ bufKey d.sel 0 + (512 + i) < bufKey d.sel 528 := by
      unfold bufKey; omega
    have hk : bufKey d.sel 0 + (512 + i) - bufKey d.sel 512 = i := by unfold bufKey; omega
    rw [Function.comp_apply, Device.read_writeSpare, if_pos hr, hk]

/-- A payload byte changes at most one buffer byte: a data byte of BEGIN_DATA its own (43_twin_replication.md R279). -/
theorem Device.read_storePayload (d : Device) (f : SlaveFrame) (x : Byte) (a : Nat) :
    Memory.read .buffers (d.storePayload f x).buf a =
      if f.token = tokBeginData ∧ 4 ≤ f.payload.length ∧ a = bufKey d.sel (f.payload.length - 4) then x
      else Memory.read .buffers d.buf a := by
  unfold Device.storePayload
  by_cases h : f.token = tokBeginData ∧ 4 ≤ f.payload.length
  · rw [if_pos h]
    simp [Device.setBufByte, Memory.read_write, h]
  · rw [if_neg h, if_neg fun hc => h ⟨hc.1, hc.2.1⟩]

/-- Storing a payload byte changes the buffers alone. -/
theorem Device.storePayload_eq (d : Device) (f : SlaveFrame) (x : Byte) :
    d.storePayload f x = { d with buf := (d.storePayload f x).buf } := by
  unfold Device.storePayload
  split <;> rfl

/-- What a RESET leaves of an outstanding flash request changes the flash alone, and only where the request points
(70_reset_and_hazards.md R371). -/
theorem Device.dropFlash_cases (d : Device) (content : List Byte) :
    (∃ b, d.flashReq = some (.erase b) ∧ d.dropFlash content = d.setFlash (flashKey b 0 0) blockBytes content) ∨
    (∃ b pg q bytes, d.flashReq = some (.program b pg q bytes) ∧
      d.dropFlash content = d.setFlash (flashKey b pg q) 528 content) ∨
    ((d.flashReq = none ∨ ∃ b pg q, d.flashReq = some (.read b pg q)) ∧ d.dropFlash content = d) := by
  unfold Device.dropFlash
  split
  · next b h => exact .inl ⟨b, h, rfl⟩
  · next b pg q bytes h => exact .inr (.inl ⟨b, pg, q, bytes, h, rfl⟩)
  · next h1 h2 =>
    refine .inr (.inr ⟨?_, rfl⟩)
    cases h : d.flashReq with
    | none => exact .inl rfl
    | some r =>
      cases r with
      | erase b => exact absurd h (h1 b)
      | program b pg q bytes => exact absurd h (h2 b pg q bytes)
      | read b pg q => exact .inr ⟨b, pg, q, rfl⟩

/-! ### The code (40_ecc.md R160) reads its 512 bytes and no others -/

theorem parityAcc_congr {f g : Nat → Byte} (n : Nat) (h : ∀ i < n, f i = g i) : parityAcc f n = parityAcc g n := by
  induction n with
  | zero => rfl
  | succ n ih => rw [parityAcc, parityAcc, ih fun i hi => h i (by omega), h n (by omega)]

theorem eccGen_congr {f g : Nat → Byte} (h : ∀ i < 512, f i = g i) : eccGen f = eccGen g := by
  rw [eccGen, eccGen, eccRaw, eccRaw, parityAcc_congr 512 h]

theorem eccVerify_res_congr {f g : Nat → Byte} (code : Word) (h : ∀ i < 512, f i = g i) :
    (eccVerify f code).res = (eccVerify g code).res := by
  simp [eccVerify, eccSyndrome, eccGen_congr h]

end Sys2Proof.Machine
end

