-- ==== Sys2Proof/Tests/Slice0.lean ====
section
/-! SUPPORT. The model's own tests, with values from spec/95_test_vectors.md and the examples of the rules, and for every
statement with hypotheses a state that meets them. -/

namespace Sys2Proof.Tests

open Sys2Proof.Machine

/-- The reset state with another device. -/
def mk (f : Device → Device) : State := { State.reset with dev := f State.reset.dev }

/-- The reset state after agent steps of this device, or reset itself if a step stopped. -/
def after (s : State) (as : List Action) : State :=
  match actAll as s with
  | .next t => t
  | _ => State.reset

/-- A write of a command word. -/
def cmd (w : Word) : Action := .host (.write32 0x000 w)

/-! ### WellFormed: an ill-formed term for each check -/

theorem test_stream_past_the_buffer_is_ill_formed : (Instr.rngBitsStart 528 1).wellFormed = false := by decide
theorem test_stream_to_the_end_is_well_formed : (Instr.rngBitsStart 512 16).wellFormed = true := by decide
theorem test_block_zero_is_ill_formed : (Instr.blockChecksum 0).wellFormed = false := by decide
theorem test_last_block_is_well_formed : (Instr.blockChecksum 0xFFFF).wellFormed = true := by decide

/-! ### Decode: words written out bit by bit from 30_encoding.md R121 to R123 -/

theorem test_decode_nop : decode 0b00000000_000000000000000000000000 = .ok .nop := by decide
theorem test_decode_eccGen_nand : decode 0b00000001_00000000000000000000000_0 = .ok (.eccGen .nand) := by decide
theorem test_decode_eccGen_rng : decode 0b00000001_00000000000000000000000_1 = .ok (.eccGen .rng) := by decide
theorem test_decode_eccVerify_nand : decode 0b00000010_00000000000000000000000_0 = .ok (.eccVerify .nand) := by decide
theorem test_decode_eccVerify_rng : decode 0b00000010_00000000000000000000000_1 = .ok (.eccVerify .rng) := by decide
theorem test_decode_rngStart : decode 0b00010000_000000000000000000000000 = .ok .rngStart := by decide
theorem test_decode_rngBitsStart :
    decode 0b00010001_0000_0000000101_0000010000 = .ok (.rngBitsStart 5 16) := by decide
theorem test_decode_bufSwap : decode 0b00010010_000000000000000000000000 = .ok .bufSwap := by decide
theorem test_decode_twinNegotiate : decode 0b00100000_00000000000000000000000_0 = .ok (.twinNegotiate false) := by decide
theorem test_decode_twinNegotiate_force :
    decode 0b00100000_00000000000000000000000_1 = .ok (.twinNegotiate true) := by decide
theorem test_decode_twinReplicate : decode 0b00100001_000000000000000000000000 = .ok .twinReplicate := by decide
theorem test_decode_blockChecksum :
    decode 0b00100010_00000000_0000001000000001 = .ok (.blockChecksum 0x0201) := by decide
theorem test_decode_unassigned : decode 0x03000000 = .error (.illegalOpcode 0x03) := by decide
theorem test_decode_reserved_bit : decode 0x01000002 = .error (.reservedBits 0x01) := by decide
theorem test_decode_reserved_bit_stream : decode 0x11100000 = .error (.reservedBits 0x11) := by decide
theorem test_decode_reserved_bit_checksum : decode 0x22010000 = .error (.reservedBits 0x22) := by decide
theorem test_encode_stream : encode (.rngBitsStart 0 16) = 0x11000010 := by decide
theorem test_table_word : decodeTableWord 32 0x22000001 = some (.blockChecksum 1) := by decide

/-! ### The pure functions, against 95_test_vectors.md -/

theorem test_gen_zero : eccGen (fun _ => 0) = 0x01FFFFFF := by decide +kernel
theorem test_gen_one_byte : eccGen (fun i => if i = 10 then 0x08 else 0) = 0x009415F5 := by decide +kernel
theorem test_gen_pattern : eccGen (fun i => BitVec.ofNat 8 (i % 251)) = 0x00AAF286 := by decide +kernel
theorem test_verify_corrects_10_3 :
    (eccVerify (fun i => if i = 10 then 0x08 else 0) 0x01FFFFFF).syn = 0x016BEA0A ∧
    (eccVerify (fun i => if i = 10 then 0x08 else 0) 0x01FFFFFF).res = .corrected ∧
    (eccVerify (fun i => if i = 10 then 0x08 else 0) 0x01FFFFFF).data 10 = 0 := by decide +kernel
theorem test_flip_syndrome : flipSyndrome 300 5 = 0x0199A72C := by decide
theorem test_spare_image : spareImage 0x009415F5 =
    [0xFF, 0xFF, 0xFF, 0xFF, 0xF5, 0x15, 0x94, 0x00, 0xFF, 0xFF, 0xFF, 0xFF, 0xFF, 0xFF, 0xFF, 0xFF] := by decide

/-! ### One step of each command -/

theorem test_nop_while_busy :
    after (mk fun d => { d with seq := .negotiating .settle }) [cmd 0x00000000] =
      mk fun d => { d with seq := .negotiating .settle } := by decide +kernel
theorem test_nop_with_argument : (after State.reset [cmd 0x00000001]).dev.err = 0x004 := by decide +kernel
theorem test_eccGen_nand :
    (after (mk fun d => { d with buf := [(10, 0x08)] }) [cmd 0x01000000]).dev.eccCode = 0x009415F5 := by decide +kernel
theorem test_eccGen_during_stream :
    (after (mk fun d => { d with streamActive := true, srem := 1 }) [cmd 0x01000001]).dev.err = 0x040 := by
  decide +kernel
theorem test_eccVerify_corrects :
    let d := (after (mk fun d => { d with buf := [(10, 0x08)], eccCode := 0x01FFFFFF }) [cmd 0x02000000]).dev
    d.buf = [] ∧ d.eccSyn = 0x016BEA0A ∧ d.eccRes = .corrected := by decide +kernel
theorem test_eccVerify_zeroed_paragraph :
    let d := (after State.reset [cmd 0x02000000]).dev
    d.eccSyn = 0x1FFFFFF ∧ d.eccRes = .uncorrectable := by decide +kernel
theorem test_rngStart_arms : (after State.reset [cmd 0x10000000]).dev.statusWord = 0x00000002 := by decide +kernel
theorem test_adc_rotates_then_mixes :
    (after (mk fun d => { d with rngArmed := true, acc := Vector.replicate 8 0x8001 }) [.adc 0x0010]).dev.accWord 0 =
      0x0013 := by decide +kernel
theorem test_rngBitsStart_end_of_buffer :
    let d := (after State.reset [cmd 0x11080010]).dev
    d.soff = 512 ∧ d.srem = 16 ∧ d.streamActive = true ∧ d.err = 0 := by decide +kernel
theorem test_rngBitsStart_past_the_buffer : (after State.reset [cmd 0x11080011]).dev.err = 0x004 := by decide +kernel
theorem test_bufSwap : (after State.reset [cmd 0x12000000]).dev.statusWord = 0x00000010 := by decide +kernel
theorem test_bufSwap_during_stream :
    let d := (after (mk fun d => { d with streamActive := true, srem := 1 }) [cmd 0x12000000]).dev
    d.sel = false ∧ d.err = 0x020 := by decide +kernel
theorem test_twinNegotiate_busy : (after State.reset [cmd 0x20000001]).dev.statusWord = 0x00000001 := by decide +kernel
theorem test_twinNegotiate_second_is_busy :
    (after State.reset [cmd 0x20000001, cmd 0x20000000]).dev.err = 0x002 := by decide +kernel
theorem test_twinReplicate_without_role : (after State.reset [cmd 0x21000000]).dev.err = 0x008 := by decide +kernel
theorem test_twinReplicate_asks_the_flag :
    (after (mk fun d => { d with conn := .single }) [cmd 0x21000000]).dev.bookReq =
      some (.flagIsSet .randomDataFinished) := by decide +kernel
theorem test_blockChecksum_first_read :
    (after State.reset [cmd 0x22000001]).dev.flashReq = some (.read 1 0 0) := by decide +kernel
theorem test_blockChecksum_block_zero : (after State.reset [cmd 0x22000000]).dev.err = 0x004 := by decide +kernel
theorem test_withFetchWord_is_a_command :
    step (State.reset.withFetchWord 32 0x12000000) = exec .bufSwap State.reset := by rfl
theorem test_read_of_cmd_is_illegal :
    let d := (after State.reset [.host (.read 0x000 .word)]).dev
    d.err = 0x080 ∧ d.readData = 0 := by decide +kernel

/-! ### Witnesses: states that meet the hypotheses of the statements, clause by clause -/

/-- Idle, with a stream active. -/
def streaming : State :=
  mk fun d => { d with streamActive := true, rngArmed := true, srem := 528, soff := 0 }

/-- In phase Negotiating. -/
def negotiating (p : NegPoint) (f : Device → Device) : State := mk fun d => { f d with seq := .negotiating p }

/-- In phase Replicating. -/
def running (tw : Bool) (p : RunPoint) (f : Device → Device) : State :=
  mk fun d => { f d with seq := .replicating tw p, repl := .running, conn := if tw then .twinnedMaster else .single }

/-- In phase SlaveFrame. -/
def inFrame (token : Byte) (payload : List Byte) (p : SlavePoint) (f : Device → Device) : State :=
  mk fun d => { f d with seq := .slaveFrame ⟨token, payload, p⟩, conn := .twinnedSlave }

/-- The await point of each of these states is the one it is built with, so a witness below that shows a field of such a
state shows a state held at that await. -/
theorem await_of_witness (p : NegPoint) (tw : Bool) (r : RunPoint) (t : Byte) (l : List Byte) (q : SlavePoint)
    (f : Device → Device) :
    (negotiating p f).dev.seq = .negotiating p ∧ (running tw r f).dev.seq = .replicating tw r ∧
    (inFrame t l q f).dev.seq = .slaveFrame ⟨t, l, q⟩ ∧ (inFrame t l q f).dev.conn = .twinnedSlave := ⟨rfl, rfl, rfl, rfl⟩

/-- A slave between frames. -/
def slave (f : Device → Device) : State := mk fun d => { f d with conn := .twinnedSlave }

theorem witness_EncodeInvertsDecode : decode 0x11084010 = .ok (.rngBitsStart 528 16) := by decide
theorem witness_CommandChecksInOrder_illegal : opAssigned (opOf 0x23FFFFFF) = false := by decide
theorem witness_CommandChecksInOrder_busy :
    opAssigned (opOf 0x22000001) = true ∧ opOf 0x22000001 ≠ 0x00 ∧ (negotiating .settle id).dev.seq ≠ .idle := by decide
theorem witness_CommandChecksInOrder_reserved :
    opAssigned (opOf 0x01000002) = true ∧ State.reset.dev.seq = .idle ∧ (0x01000002 : Word) &&& reservedMask 0x01 ≠ 0 := by
  decide
theorem witness_CommandChecksInOrder_range :
    operandInRange State.reset.dev.params.blockCount 0x11080011 = false ∧
    operandInRange State.reset.dev.params.blockCount 0x22000000 = false ∧
    operandInRange State.reset.dev.params.blockCount 0x22000800 = false := by decide
theorem witness_CommandChecksInOrder_accepted :
    opAssigned (opOf 0x220007FF) = true ∧ (0x220007FF : Word) &&& reservedMask 0x22 = 0 ∧
    operandInRange State.reset.dev.params.blockCount 0x220007FF = true := by decide
theorem witness_BusyRefusesCommandsAndWindowWrites :
    (negotiating .settle id).dev.seq ≠ .idle ∧ opAssigned (opOf 0x01000000) = true ∧ opOf 0x01000000 ≠ 0x00 ∧
    inWindow 0x400 = true ∧ inWindow 0x60F = true ∧ inWindow 0x800 = true ∧ inWindow 0xA0F = true ∧
    readable 0x004 .word = true ∧ readable 0xA0F .byte = true := by decide
theorem witness_StepRunsTheDecodedCommand :
    ({ State.reset with pending := [commandEvent 0x12000000] } : State).pending = commandEvent 0x12000000 :: [] ∧
    decode 0x12000000 = .ok .bufSwap ∧ decode (BitVec.ofNat 32 (0x12000000 % 2 ^ 32)) = .ok .bufSwap := by decide
theorem witness_EveryStepAnswersOnOneDevice :
    ({ State.reset with pending := [⟨.self, .seq⟩] } : State).nextEvent.1.side = .self ∧
    ({ State.reset with pending := [⟨.twin, .seq⟩] } : State).nextEvent.1.side = .twin ∧
    ({ State.reset with pending := [⟨.twin, .seq⟩] } : State).pending = ⟨.twin, .seq⟩ :: [] ∧
    State.reset.pending = [] := by decide
theorem witness_NopChangesNothing : opOf 0x00800000 = 0x00 ∧ (0x00800000 : Word) ≠ 0 := by decide
theorem witness_EccGenWritesTheCode :
    State.reset.dev.seq = .idle ∧ State.reset.dev.streamActive = false ∧ streaming.dev.seq = .idle ∧
    streaming.dev.streamActive = true ∧
    ∀ i < 512, (fun _ => 0 : Nat → Byte) i = (fun i => if i < 512 then 0 else 1 : Nat → Byte) i := by decide +kernel
theorem witness_EccVerifyReportsAndCorrects :
    State.reset.dev.seq = .idle ∧ State.reset.dev.streamActive = false ∧
    (eccVerify (fun i => State.reset.dev.bufByte State.reset.dev.sel i) 0).res ≠ .corrected := by decide +kernel
theorem witness_RngStartArmsTheSampler :
    State.reset.dev.seq = .idle ∧ State.reset.dev.streamActive = false ∧ streaming.dev.seq = .idle ∧
    streaming.dev.streamActive = true ∧ (528 : BitVec 10).toNat + (0 : BitVec 10).toNat ≤ 528 := by decide
theorem witness_RngBitsStartBeginsTheStream :
    State.reset.dev.seq = .idle ∧ State.reset.dev.streamActive = false ∧
    (0 : BitVec 10).toNat + (528 : BitVec 10).toNat ≤ 528 ∧ (528 : BitVec 10).toNat + (0 : BitVec 10).toNat ≤ 528 := by
  decide
theorem witness_BufSwapExchangesTheRoles :
    State.reset.dev.seq = .idle ∧ State.reset.dev.streamActive = false ∧ streaming.dev.seq = .idle ∧
    streaming.dev.streamActive = true ∧
    exec .bufSwap State.reset = .next (mk fun d => { d with sel := true }) := ⟨rfl, rfl, rfl, rfl, rfl⟩
theorem witness_TwinNegotiateStartsTheElection :
    State.reset.dev.seq = .idle ∧ State.reset.dev.streamActive = false ∧ streaming.dev.seq = .idle ∧
    streaming.dev.streamActive = true := by decide
theorem witness_TwinReplicateStartsTheRun :
    (mk fun d => { d with conn := .single }).dev.seq = .idle ∧ (mk fun d => { d with conn := .single }).dev.conn = .single ∧
    (mk fun d => { d with conn := .twinnedMaster }).dev.conn = .twinnedMaster ∧
    State.reset.dev.conn = .indeterminate ∧ (slave id).dev.conn = .twinnedSlave := by decide
theorem witness_BlockChecksumStartsAtTheFirstParagraph :
    State.reset.dev.seq = .idle ∧ (1 ≤ (1 : Half).toNat ∧ (1 : Half).toNat < State.reset.dev.params.blockCount) ∧
    (1 ≤ (2047 : Half).toNat ∧ (2047 : Half).toNat < State.reset.dev.params.blockCount) ∧
    State.reset.dev.params.blockCount ≤ (2048 : Half).toNat := by decide

/-- Zero data. -/
def zeros : Nat → Byte := fun _ => 0

theorem witness_VerifyFlipsOneBitOrNone :
    (eccVerify (flipBit zeros 511 7) 0x01FFFFFF).res = .corrected ∧
    (eccVerify zeros 0x01FFFFFF).res ≠ .corrected := by decide +kernel
theorem witness_SingleErrorIsCorrected : 511 < 512 ∧ 7 < 8 := by decide
theorem witness_DoubleErrorIsUncorrectable : 0 < 512 ∧ 0 < 8 ∧ 511 < 512 ∧ 7 < 8 ∧ (0, 0) ≠ (511, 7) := by decide
theorem witness_StoredCodeErrors :
    (0xFFFFFFFF : Word).setWidth 25 = (eccGen zeros).setWidth 25 ∧
    (0x01FFFFFE : Word).setWidth 25 = (eccGen zeros).setWidth 25 ^^^ (1#25 <<< 0) ∧
    (0x00FFFFFF : Word).setWidth 25 = (eccGen zeros).setWidth 25 ^^^ (1#25 <<< 24) := by decide +kernel
theorem witness_RoundTripAndTripleErrors :
    2 < 512 ∧ 2 < 8 ∧ (0, 0) ≠ (1, 1) ∧ (0, 0) ≠ (2, 2) ∧ (1, 1) ≠ (2, 2) := by decide
theorem witness_ErasedAndZeroedParagraphs :
    (∀ i < 512, (fun _ => 0xFF : Nat → Byte) i = 0xFF) ∧ ∀ i < 512, zeros i = 0x00 := ⟨fun _ _ => rfl, fun _ _ => rfl⟩
theorem witness_GenFlipVerifyRestores : 511 < 512 ∧ 7 < 8 ∧ State.reset.dev.seq = .idle := by decide

/-- The sampler armed, at the start of a cycle. -/
def armed : Device := { State.reset.dev with rngArmed := true }

theorem witness_AdcSampleMixesAndDelivers :
    State.reset.dev.rngArmed = false ∧ armed.rngArmed = true ∧ armed.streamActive = false ∧
    streaming.dev.streamActive = true ∧ streaming.dev.rngArmed = true ∧
    (mk fun d => { d with rngArmed := true, scount := 127 }).dev.scount + 1 = 128 := by decide
theorem witness_CycleClosedForm :
    armed.params.legal = true ∧ armed.rngArmed = true ∧ armed.scount = 0 ∧ armed.streamActive = false ∧
    armed.params.nSamples = 128 ∧ (List.replicate 128 (1 : Half)).length = armed.params.nSamples := by decide +kernel
theorem witness_StreamTakesItsCycles :
    streaming.dev.params.legal = true ∧ streaming.dev.streamActive = true ∧ streaming.dev.rngArmed = true ∧
    streaming.dev.scount = 0 ∧ 1 ≤ streaming.dev.srem ∧ streaming.dev.soff + streaming.dev.srem ≤ 528 ∧
    (List.replicate 4224 (0 : Half)).length = (streaming.dev.srem + 15) / 16 * streaming.dev.params.nSamples := by
  decide +kernel

theorem witness_BackoffIsForcedOrDrawn_settle :
    (negotiating .settle id).dev.seq = .negotiating .settle ∧ (negotiating .settle id).dev.negT = 0 ∧
    1 ≤ (negotiating .settle fun d => { d with negT := 1, negForce := true }).dev.negT ∧
    (negotiating .settle fun d => { d with negT := 1, negForce := true }).dev.negForce = true ∧
    (negotiating .settle fun d => { d with negT := 1, negPrio := true, usbHost := true }).dev.negPrio = true ∧
    (negotiating .settle fun d => { d with negT := 1, negPrio := true, usbHost := true }).dev.usbHost = true ∧
    (negotiating .settle fun d => { d with negT := 1 }).dev.negForce = false ∧
    (negotiating .settle fun d => { d with negT := 1 }).dev.negPrio = false := by decide
theorem witness_BackoffIsForcedOrDrawn_sample :
    (negotiating .sample id).dev.seq = .negotiating .sample ∧ (negotiating .sample id).dev.rngDone = false ∧
    (negotiating .sample fun d => { d with rngDone := true }).dev.rngDone = true := by decide
theorem witness_RoundReadsItsBytes_listen :
    (negotiating .listen id).dev.seq = .negotiating .listen ∧
    (negotiating .listen fun d => { d with rxq := [0x50] }).dev.rxq = 0x50 :: [] ∧
    (negotiating .listen fun d => { d with rxq := [0x41] }).dev.rxq = 0x41 :: [] ∧ (0x41 : Byte) ≠ 0x50 ∧
    (negotiating .listen id).dev.rxq = [] ∧ (negotiating .listen id).dev.negD ≤ (negotiating .listen id).dev.negT ∧
    (negotiating .listen fun d => { d with negD := 3, negT := 2 }).dev.negT < 3 := by decide
theorem witness_RoundReadsItsBytes_window :
    (negotiating .window id).dev.seq = .negotiating .window ∧
    (negotiating .window fun d => { d with rxq := [0x41] }).dev.rxq = 0x41 :: [] ∧
    (negotiating .window fun d => { d with rxq := [0x50] }).dev.rxq = 0x50 :: [] ∧
    (negotiating .window fun d => { d with rxq := [0x64] }).dev.rxq = 0x64 :: [] ∧
    ((0x64 : Byte) ≠ 0x41 ∧ (0x64 : Byte) ≠ 0x50) ∧
    1000 ≤ (negotiating .window fun d => { d with negT := 1000 }).dev.negT ∧
    (negotiating .window fun d => { d with negT := 999 }).dev.negT < 1000 := by decide
theorem witness_TimerCountsOnlyNegotiations :
    (negotiating .window fun d => { d with negT := 1000 }).dev.seq = .negotiating .window ∧
    State.reset.dev.seq.phase ≠ .negotiating := by decide
theorem witness_ForcedElectionAlone :
    State.reset.dev.seq = .idle ∧ State.reset.dev.streamActive = false ∧ State.reset.dev.rxq = [] := by decide
theorem witness_ConnIsWrittenOnlyByTheElection :
    (after (mk fun d => { d with conn := .single }) [cmd 0x20000000]).dev.conn = .indeterminate ∧
    (after (negotiating .window fun d => { d with negT := 1000 }) [.seq]).dev.conn = .single ∧
    (after (negotiating .window fun d => { d with rxq := [0x41] }) [.seq]).dev.conn = .twinnedMaster ∧
    (after (negotiating .listen fun d => { d with rxq := [0x50] }) [.seq]).dev.conn = .twinnedSlave ∧
    (after (negotiating .window fun d => { d with rxq := [0x50] }) [.seq]).dev.conn = .collision := by decide +kernel

theorem witness_RunStartFollowsTheFlags :
    (running true .checkFinished fun d => { d with bookResult := some (.flag true) }).dev.bookResult = some (.flag true) ∧
    (running true .checkFinished fun d => { d with bookResult := some (.flag false) }).dev.seq =
      .replicating true .checkFinished ∧
    (running true .checkStarted fun d => { d with bookResult := some (.flag true) }).dev.seq =
      .replicating true .checkStarted ∧
    (running true .setStarted fun d => { d with bookResult := some .done }).dev.bookResult = some .done ∧
    (running true .firstStream fun d => { d with streamActive := true }).dev.streamActive = true ∧
    (running true .firstStream id).dev.streamActive = false ∧ 1 < (running true .firstStream id).dev.params.blockCount := by
  decide
theorem witness_BlockLoopSkipsBadBlocks :
    (running true (.status 1) fun d => { d with bookResult := some (.status .unused) }).dev.bookResult =
      some (.status .unused) ∧ BlockStatus.unused ≠ .bad ∧
    (running true (.status 1) fun d => { d with bookResult := some (.status .bad) }).dev.bookResult =
      some (.status .bad) ∧
    1 + 1 < (running false (.status 1) id).dev.params.blockCount ∧
    2047 + 1 = (running false (.status 2047) id).dev.params.blockCount ∧
    (running true (.erasing 1) fun d => { d with flashResult := some ⟨false, []⟩ }).dev.flashResult = some ⟨false, []⟩ ∧
    (running true .finishing fun d => { d with bookResult := some .done }).dev.bookResult = some .done := by decide
theorem witness_ParagraphSwapsSendsAndPrograms :
    (running true (.fill 1 63 3 true) id).dev.seq = .replicating true (.fill 1 63 3 true) ∧
    (running true (.fill 1 63 3 true) id).dev.streamActive = false ∧
    (running false (.fill 1 0 0 false) id).dev.seq = .replicating false (.fill 1 0 0 false) ∧
    (running false (.fill 1 0 0 false) fun d => { d with streamActive := true }).dev.streamActive = true := by decide
theorem witness_ParagraphsGoInOrderToTheAudit :
    (running true (.programming 1 63 3) fun d => { d with flashResult := some ⟨true, []⟩ }).dev.flashResult =
      some ⟨true, []⟩ ∧
    (running false (.programming 1 0 2) fun d => { d with flashResult := some ⟨true, []⟩ }).dev.seq =
      .replicating false (.programming 1 0 2) ∧
    (running false (.programming 1 62 3) fun d => { d with flashResult := some ⟨true, []⟩ }).dev.seq =
      .replicating false (.programming 1 62 3) ∧
    (running false (.programming 1 63 3) fun d => { d with flashResult := some ⟨false, []⟩ }).dev.flashResult =
      some ⟨false, []⟩ ∧
    (running true (.dataAck 1 63 3 false) fun d => { d with rxq := [0x64] }).dev.rxq = 0x64 :: [] ∧
    (running true (.dataAck 1 62 3 false) fun d => { d with rxq := [0x64] }).dev.seq =
      .replicating true (.dataAck 1 62 3 false) ∧ 2 < 3 ∧ 62 < 63 := by decide
theorem witness_UnexpectedReplyAborts :
    (running true (.skipAck 1) fun d => { d with rxq := [0x64] }).dev.seq = .replicating true (.skipAck 1) ∧
    (running true (.markAck 1) fun d => { d with rxq := [0x64] }).dev.rxq = 0x64 :: [] ∧ (0x64 : Byte) ≠ 0x6D ∧
    (running true (.dataAck 1 0 0 false) fun d => { d with rxq := [0x6D] }).dev.rxq = 0x6D :: [] ∧
    (0x6D : Byte) ≠ 0x64 ∧
    (running true (.auditReply 1 false) fun d => { d with rxq := [0x64] }).dev.rxq = 0x64 :: [] ∧
    (0x64 : Byte) ≠ 0x63 ∧ (0x64 : Byte) ≠ 0x78 := by decide

theorem witness_ParagraphSwapsSendsAndPrograms_badSingle :
    (running false (.fill 1 63 3 true) id).dev.seq = .replicating false (.fill 1 63 3 true) ∧
    (running false (.fill 1 62 3 true) id).dev.streamActive = false ∧
    (after (running false (.fill 1 63 2 true) id) [.seq]).dev.seq = .replicating false (.fill 1 63 3 true) ∧
    (after (running false (.fill 1 63 3 true) id) [.seq]).dev.bookReq = some (.markBad 1) := by decide +kernel
theorem witness_ParagraphsGoInOrderToTheAudit_local :
    (running false (.programming 2047 63 3) fun d => { d with flashResult := some ⟨true, []⟩ }).dev.seq =
      .replicating false (.programming 2047 63 3) ∧
    (running false (.localMark 2047) fun d => { d with bookResult := some .done }).dev.bookResult = some .done ∧
    1 + 1 < (running false (.localMark 1) id).dev.params.blockCount := by decide
theorem witness_AuditMarksDifferingBlocks_acks :
    (running true (.skipAck 2047) fun d => { d with rxq := [0x6D] }).dev.seq = .replicating true (.skipAck 2047) ∧
    (running true (.markAck 1) fun d => { d with rxq := [0x6D] }).dev.rxq = 0x6D :: [] := by decide

/-- A run at the last paragraph of its audit's read, the read having failed. -/
def lastRead : State :=
  running true (.auditRead (some 7) ⟨1, 63, 3, 7⟩) fun d => { d with flashResult := some ⟨false, []⟩ }

theorem witness_AuditMarksDifferingBlocks_replies :
    (running true (.auditReply 1 false) fun d => { d with rxq := [0x63] }).dev.rxq = 0x63 :: [] ∧
    (running true (.auditSum 1 false [1, 2, 3]) fun d => { d with rxq := [0] }).dev.seq =
      .replicating true (.auditSum 1 false [1, 2, 3]) ∧
    (running true (.auditReply 1 false) fun d => { d with rxq := [0x78] }).dev.rxq = 0x78 :: [] ∧
    (running true (.auditReply 1 true) fun d => { d with rxq := [0x78] }).dev.seq =
      .replicating true (.auditReply 1 true) ∧
    (running true (.auditMark 1) fun d => { d with bookResult := some .done }).dev.bookResult = some .done := by decide
theorem witness_AuditMarksDifferingBlocks_badBlock :
    (running true (.auditSum 1 true [1, 2, 3]) fun d => { d with rxq := [0] }).dev.rxq = 0 :: [] ∧
    (running true (.auditSum 1 true [1, 2]) fun d => { d with rxq := [3] }).dev.rxq = 3 :: [] ∧
    ([1, 2] : List Byte).length < 3 := by decide

theorem getD_constant (n i : Nat) (x : Byte) (h : i < n) : (List.replicate n x).getD i 0 = x := by
  simp [List.getD, h]

/-- A read answer of 528 erased bytes. -/
def erasedRead : FlashResult := ⟨true, List.replicate 528 0xFF⟩

/-- Erased data verify without error, so a checksum that is not at its end goes on. -/
theorem erased_turn_goes_on (d : Device) :
    ∃ d1 c1, d.checksumTurn ⟨1, 0, 3, 0⟩ erasedRead = (d1, .more c1) := by
  have byte (i : Nat) (h : i < 528) :
      (d.setBufBytes d.sel 0 (erasedRead.bytes.take 528)).bufByte d.sel i = 0xFF := by
    have ht : erasedRead.bytes.take 528 = List.replicate 528 0xFF :=
      List.take_of_length_le (Nat.le_of_eq List.length_replicate)
    have hl : (erasedRead.bytes.take 528).length = 528 := by rw [ht, List.length_replicate]
    have hr : bufKey d.sel 0 ≤ bufKey d.sel i ∧ bufKey d.sel i < bufKey d.sel 0 + (erasedRead.bytes.take 528).length := by
      rw [hl]; unfold bufKey; omega
    have hk : bufKey d.sel i - bufKey d.sel 0 = i := by unfold bufKey; omega
    rw [Device.setBufBytes, Device.bufByte, Memory.read_writeBytes, if_pos hr, hk, ht]
    exact getD_constant 528 i _ h
  have dispatch : eccDispatch (eccSyndrome ((d.setBufBytes d.sel 0 (erasedRead.bytes.take 528)).bufData d.sel)
      ((d.setBufBytes d.sel 0 (erasedRead.bytes.take 528)).storedCode d.sel)) = .noError := by
    rw [Device.storedCode, byte 516 (by omega), byte 517 (by omega), byte 518 (by omega), byte 519 (by omega),
      eccSyndrome, eccGen_congr (f := Device.bufData _ _) (g := fun _ => 0xFF) fun i hi => byte i (by omega)]
    decide +kernel
  unfold Device.checksumTurn
  rw [if_pos (show erasedRead.ok = true from rfl)]
  dsimp only [Device.setBufBytes_sel]
  simp only [dispatch, reduceCtorEq, if_false]
  rw [show nextPara 0 3 = some (1, 0) from rfl]
  exact ⟨_, _, rfl⟩

theorem witness_AuditMarksDifferingBlocks_turn :
    (running true (.auditRead none ⟨1, 0, 3, 0⟩) fun d => { d with flashResult := some erasedRead }).dev.flashResult =
      some erasedRead ∧
    ∃ d c1, Device.checksumTurn { (running true (.auditRead none ⟨1, 0, 3, 0⟩)
      fun d => { d with flashResult := some erasedRead }).dev with flashResult := none } ⟨1, 0, 3, 0⟩ erasedRead =
        (d, .more c1) := ⟨rfl, erased_turn_goes_on _⟩
theorem witness_AuditMarksDifferingBlocks_sums :
    lastRead.dev.seq = .replicating true (.auditRead (some 7) ⟨1, 63, 3, 7⟩) ∧
    lastRead.dev.flashResult = some ⟨false, []⟩ ∧
    Device.checksumTurn { lastRead.dev with flashResult := none } ⟨1, 63, 3, 7⟩ ⟨false, []⟩ =
      ({ lastRead.dev with flashResult := none }, .finished false 7) := ⟨rfl, rfl, rfl⟩

/-- A checksum that awaits the read of a paragraph. -/
def summing (pg q : Nat) (r : FlashResult) : State :=
  mk fun d => { d with seq := .checksumming ⟨1, pg, q, 0⟩, flashResult := some r }

theorem witness_ChecksumAddsCorrectedData :
    (summing 63 3 ⟨false, []⟩).dev.seq = .checksumming ⟨1, 63, 3, 0⟩ ∧
    (summing 63 3 ⟨true, List.replicate 528 0xFF⟩).dev.flashResult = some ⟨true, List.replicate 528 0xFF⟩ ∧
    (List.replicate 528 (0xFF : Byte)).length = 528 := ⟨rfl, rfl, List.length_replicate⟩

theorem witness_ChecksumAddsCorrectedData_outcomes :
    (eccVerify (fun i => (List.replicate 528 (0xFF : Byte)).getD i 0) 0xFFFFFFFF).res ≠ .uncorrectable ∧
    (eccVerify (fun i => (List.replicate 528 (0x00 : Byte)).getD i 0) 0x00000000).res = .uncorrectable := by
  rw [eccVerify_res_congr (g := fun _ => 0xFF) _ fun i hi => getD_constant 528 i _ (by omega),
    eccVerify_res_congr (g := fun _ => 0) _ fun i hi => getD_constant 528 i _ (by omega)]
  decide +kernel

theorem witness_ErasedBlockChecksum :
    State.reset.dev.seq = .idle ∧ 1 ≤ (2047 : Half).toNat ∧ (2047 : Half).toNat < State.reset.dev.params.blockCount ∧
    ∀ i < blockBytes, Memory.read .flash State.reset.dev.flash (flashKey (2047 : Half).toNat 0 0 + i) = 0xFF :=
  ⟨rfl, by decide, by decide, fun _ _ => rfl⟩

theorem witness_SlaveAnswersPingAndDiscardsTheUnknown_first :
    (slave fun d => { d with rxq := [0x50] }).dev.conn = .twinnedSlave ∧
    (slave fun d => { d with rxq := [0x50] }).dev.seq = .idle ∧
    (slave fun d => { d with rxq := [0x50] }).dev.rxq = 0x50 :: [] ∧
    (slave fun d => { d with rxq := [0x6D] }).dev.rxq = 0x6D :: [] ∧ (0x6D : Byte) ≠ 0x4D := by decide
theorem witness_SlaveAnswersPingAndDiscardsTheUnknown_block :
    (inFrame 0x43 [0x00] .payload fun d => { d with rxq := [0x08] }).dev.rxq = 0x08 :: [] ∧
    ([0x00] : List Byte).length = 1 ∧
    State.reset.dev.params.blockCount ≤ ((([0x00] ++ [0x08] : List Byte).getD 1 0) ++
      (([0x00] ++ [0x08] : List Byte).getD 0 0)).toNat := by decide
theorem witness_SlaveAnswersPingAndDiscardsTheUnknown_address :
    ([1, 0, 0, 4] ++ List.replicate 511 (0 : Byte)).length = 515 ∧
    3 < (([1, 0, 0, 4] ++ List.replicate 511 (0 : Byte)).getD 3 0).toNat ∧
    ([1, 0, 63, 3] ++ List.replicate 510 (0 : Byte)).length < 515 := by decide +kernel
theorem witness_SlaveAnswersPingAndDiscardsTheUnknown_token :
    (slave fun d => { d with rxq := [0x43] }).dev.conn = .twinnedSlave ∧
    (slave fun d => { d with rxq := [0x43] }).dev.seq = .idle ∧
    (slave fun d => { d with rxq := [0x4D] }).dev.rxq = 0x4D :: [] := by decide
theorem witness_SlaveRepliesWhateverItsFlashReports_complete :
    (inFrame 0x43 [0x01] .payload fun d => { d with rxq := [0x00] }).dev.rxq = 0x00 :: [] ∧
    1 ≤ ((([0x01] ++ [0x00] : List Byte).getD 1 0) ++ (([0x01] ++ [0x00] : List Byte).getD 0 0)).toNat ∧
    ((([0xFF] ++ [0x07] : List Byte).getD 1 0) ++ (([0xFF] ++ [0x07] : List Byte).getD 0 0)).toNat <
      (inFrame 0x4D [0xFF] .payload fun d => { d with rxq := [0x07] }).dev.params.blockCount := by decide
theorem witness_SlaveRepliesWhateverItsFlashReports_data :
    let first : List Byte := [1, 0, 0, 0] ++ List.replicate 511 0
    let last : List Byte := [1, 0, 63, 3] ++ List.replicate 511 0
    first.length = 515 ∧ (first.getD 2 0).toNat = 0 ∧ (first.getD 3 0).toNat = 0 ∧
    ((first ++ [0]).getD 1 0 ++ (first ++ [0]).getD 0 0).toNat = 1 ∧
    last.length = 515 ∧ (last.getD 2 0).toNat = 63 ∧ (last.getD 3 0).toNat = 3 ∧
    (inFrame 0x44 last .payload fun d => { d with rxq := [0] }).dev.rxq = 0 :: [] := by decide +kernel
theorem witness_SlaveRepliesWhateverItsFlashReports_turn :
    (inFrame 0x43 [1, 0] (.checksum ⟨1, 0, 3, 0⟩) fun d => { d with flashResult := some erasedRead }).dev.flashResult =
      some erasedRead ∧
    ∃ d c1, Device.checksumTurn { (inFrame 0x43 [1, 0] (.checksum ⟨1, 0, 3, 0⟩)
      fun d => { d with flashResult := some erasedRead }).dev with flashResult := none } ⟨1, 0, 3, 0⟩ erasedRead =
        (d, .more c1) := ⟨rfl, erased_turn_goes_on _⟩
theorem witness_SlaveRepliesWhateverItsFlashReports :
    (inFrame 0x44 [1, 0, 0, 0] .checkStarted fun d => { d with bookResult := some (.flag false) }).dev.bookResult =
      some (.flag false) ∧
    (inFrame 0x44 [1, 0, 0, 0] .setStarted fun d => { d with bookResult := some .done }).dev.bookResult = some .done ∧
    (inFrame 0x44 [1, 0, 0, 0] .erasing fun d => { d with flashResult := some ⟨false, []⟩ }).dev.flashResult =
      some ⟨false, []⟩ ∧
    (inFrame 0x44 [1, 0, 0, 0] .programming fun d => { d with flashResult := some ⟨false, []⟩ }).dev.seq =
      .slaveFrame ⟨0x44, [1, 0, 0, 0], .programming⟩ ∧
    Device.checksumTurn State.reset.dev ⟨1, 63, 3, 7⟩ ⟨false, []⟩ = (State.reset.dev, .finished false 7) ∧
    (inFrame 0x4D [1, 0] .marking fun d => { d with bookResult := some .done }).dev.bookResult = some .done :=
  ⟨rfl, rfl, rfl, rfl, rfl, rfl⟩

/-- A slave to which a whole BEGIN_DATA frame for paragraph (1, 63, 3) is in flight. -/
def frameInFlight : State :=
  { slave id with lineIn := [0x44, 1, 0, 63, 3] ++ List.replicate 512 0xA5 ++ [] }

theorem witness_SlaveProgramsTheFrame :
    frameInFlight.dev.conn = .twinnedSlave ∧ frameInFlight.dev.seq = .idle ∧ frameInFlight.dev.rxq = [] ∧
    1 ≤ frameInFlight.dev.params.rxFifoDepth ∧
    frameInFlight.lineIn = [0x44, 1, 0, 63, 3] ++ List.replicate 512 0xA5 ++ [] ∧
    (List.replicate 512 (0xA5 : Byte)).length = 512 ∧ 1 ≤ ((0 : Byte) ++ (1 : Byte)).toNat ∧
    ((0 : Byte) ++ (1 : Byte)).toNat < frameInFlight.dev.params.blockCount ∧ (63 : Byte).toNat ≤ 63 ∧
    (3 : Byte).toNat ≤ 3 ∧ (63 : Byte) ≠ 0 := by decide +kernel

/-- A quiet device meets the invariant of the sequencer in every connection state. -/
theorem idle_seqInv (f : Conn) : Device.SeqInv { State.reset.dev with conn := f } := by
  constructor <;> simp [State.reset, Device.fresh, SeqPoint.inBlocks, SeqPoint.roleOk, SeqPoint.running]

theorem witness_SlaveNeverInitiates :
    (slave id).dev.SeqInv ∧ (slave id).dev.NegInv ∧ (slave id).dev.conn = .twinnedSlave ∧
    (∀ acc, Action.seq ≠ .host acc) ∧ ∀ r, Action.seq ≠ .reset r := by
  refine ⟨idle_seqInv .twinnedSlave, ?_, rfl, by simp, by simp⟩
  constructor <;> simp [slave, mk, State.reset, Device.fresh, SeqPoint.phase]
theorem witness_FlashCompletesItsRequest :
    State.reset.dev.flashReq = none ∧ (mk fun d => { d with flashReq := some (.erase 2047) }).dev.flashReq =
      some (.erase 2047) ∧
    (mk fun d => { d with flashReq := some (.program 1 63 3 (List.replicate 528 0)) }).dev.flashReq =
      some (.program 1 63 3 (List.replicate 528 0)) ∧ (List.replicate 528 (0 : Byte)).length = 528 ∧
    (mk fun d => { d with flashReq := some (.read 1 0 0) }).dev.flashReq = some (.read 1 0 0) := by decide +kernel
theorem witness_BookkeepingOnlyGoesForward :
    (mk fun d => { d with bookReq := some (.markBad 1) }).dev.bookReq = some (.markBad 1) ∧
    (mk fun d => { d with usage := [(1, .bad)] }).dev.blockStatus 1 = .bad ∧
    (mk fun d => { d with flags := ⟨false, true, false⟩ }).dev.flags.get .randomDataStarted = true ∧
    State.resetTwinned.twin = some (Device.fresh Params.default) := by decide
theorem witness_LinkCarriesBytesInOrder :
    ({ State.reset with lineIn := [0x50] } : State).lineIn = 0x50 :: [] ∧ State.reset.lineIn = [] ∧
    State.reset.dev.txq = [] ∧ (mk fun d => { d with txq := [.ref true 511] }).dev.txq = .ref true 511 :: [] ∧
    State.resetTwinned.twin = some (Device.fresh Params.default) ∧
    ({ State.resetTwinned with lineOut := [0x41] } : State).lineOut = 0x41 :: [] ∧
    (Device.fresh Params.default).rxq.length < (Device.fresh Params.default).params.rxFifoDepth := by decide
theorem witness_ReadsReturnTheirRow :
    readable (0xA10 : Offset).toNat .byte = false ∧ readable (0x400 : Offset).toNat .word = false ∧
    readable (0x004 : Offset).toNat .byte = false ∧ readable (0x01C : Offset).toNat .word = false ∧ 527 < 528 := by decide
theorem witness_WritesReachOnlyTheirRow :
    inWindow (0x610 : Offset).toNat = false ∧ inWindow (0x7FF : Offset).toNat = false ∧
    inWindow (0x000 : Offset).toNat = false ∧ (0x004 : Offset) ≠ 0x000 ∧ (0x004 : Offset) ≠ 0x008 ∧
    (0x004 : Offset) ≠ 0x010 := by decide
theorem witness_RegistersChangeOnlyByTheirAgent :
    (after { State.reset with dev := armed } [.adc 1]).dev.acc ≠ State.reset.dev.acc ∧
    (after State.reset [cmd 0x01000000]).dev.eccCode ≠ State.reset.dev.eccCode ∧
    (after State.reset [cmd 0x02000000]).dev.eccRes ≠ State.reset.dev.eccRes ∧
    (after (summing 63 3 ⟨false, []⟩) [.seq]).dev.chkOk = false ∧
    (after (mk fun d => { d with flashReq := some (.program 1 0 0 [0]) }) [.flash true []]).dev.flash ≠ [] ∧
    (after (mk fun d => { d with bookReq := some (.markBad 1) }) [.book]).dev.usage ≠ [] ∧
    (after State.reset [.usbHost true]).dev.usbHost ≠ State.reset.dev.usbHost ∧
    (after (mk fun d => { d with err := 0x3FF }) [.host (.write32 0x010 0x200)]).dev.err = 0x1FF := by decide +kernel
theorem witness_ResetGivesTheResetState_outstanding :
    (mk fun d => { d with flashReq := some (.program 1 63 3 []) }).dev.flashReq = some (.program 1 63 3 []) ∧
    (mk fun d => { d with flashReq := some (.erase 2047) }).dev.flashReq = some (.erase 2047) ∧
    (mk fun d => { d with bookReq := some (.markBad 1) }).dev.bookReq = some (.markBad 1) ∧
    (mk fun d => { d with bookReq := some (.setFlag .randomDataStarted) }).dev.bookReq =
      some (.setFlag .randomDataStarted) := by decide
theorem witness_ResetGivesTheResetState :
    State.reset.dev.flashReq = none ∧ State.reset.dev.bookReq = none := by decide

theorem witness_StepKeepsTheMemories : State.reset.each Device.MemInv ∧ ∃ t, step (State.reset.withFetchWord 32 0) = .next t :=
  ⟨⟨⟨rfl, rfl, rfl⟩, by simp [State.reset]⟩, _, rfl⟩
theorem witness_StepKeepsTheStream : State.reset.each Device.StreamInv := by
  refine ⟨?_, by simp [State.reset]⟩
  constructor <;> simp [State.reset, Device.fresh, Params.default, Params.legal]
theorem witness_StepKeepsTheElection : State.reset.each Device.NegInv := by
  refine ⟨?_, by simp [State.reset]⟩
  constructor <;> simp [State.reset, Device.fresh, SeqPoint.phase]
theorem witness_StepKeepsTheSequencer : State.reset.each Device.SeqInv :=
  ⟨idle_seqInv .indeterminate, by simp [State.reset]⟩
theorem witness_StepKeepsProgramsCoded : State.reset.each Device.CodedProgram :=
  ⟨by simp [Device.CodedProgram, State.reset, Device.fresh], by simp [State.reset]⟩
theorem witness_StepKeepsSumsBounded : State.reset.each Device.SumInv := by
  refine ⟨?_, by simp [State.reset]⟩
  constructor <;> simp [State.reset, Device.fresh, SeqPoint.checksumLoop]
theorem witness_BlockZeroIsNeverTouched : State.resetTwinned.each Device.SeqInv := by
  refine ⟨idle_seqInv .indeterminate, ?_⟩
  intro t ht
  simp [State.resetTwinned] at ht
  subst ht
  exact idle_seqInv .indeterminate

end Sys2Proof.Tests
end

section
/-! ### What the sequencer's operations leave alone (10_state.md R31, R36 to R50)

A run, a block checksum and a slave frame work on the sequencer's point, its ports, its queues, the buffers, REPL and
CUR_BLOCK. Every other register is in `Device.outsideSeq`; `Device.Keeps` says that it is as before, that no error bit was
cleared, and that no election began. -/

namespace Sys2Proof.Machine

/-- The device with what a run, a block checksum and a slave frame work on blanked. -/
def Device.outsideSeq (d : Device) : Device :=
  { d with
    seq := .idle, flashReq := none, flashResult := none, bookReq := none, bookResult := none, err := 0, sel := false,
    buf := [], repl := .idle, curBlock := 0, rxq := [], txq := [] }

/-- `d'` comes from `d` with the registers outside the sequencer as they were, every error bit of `d` still set, and no
election begun. -/
structure Device.Keeps (d d' : Device) : Prop where
  outside : d'.outsideSeq = d.outsideSeq
  sticky : ∀ i, d.err.getLsbD i = true → d'.err.getLsbD i = true
  elects : d.seq.phase ≠ .negotiating → d'.seq.phase ≠ .negotiating

namespace Device.Keeps

variable {d e d' : Device}

@[refl] theorem refl (d : Device) : Keeps d d := ⟨rfl, fun _ h => h, fun h => h⟩

@[trans] theorem trans (h : Keeps d e) (h' : Keeps e d') : Keeps d d' :=
  ⟨h'.outside.trans h.outside, fun i hi => h'.sticky i (h.sticky i hi), fun hp => h'.elects (h.elects hp)⟩

theorem not_cleared (k : Keeps d d') {i : Nat} (h : d.err.getLsbD i = true) (h' : d'.err.getLsbD i = false) : False :=
  absurd ((k.sticky i h).symm.trans h') nofun

/-- `d'` is `d` but for what the sequencer works on. -/
theorem eq_edit (k : Keeps d d') :
    d' = { d with
      seq := d'.seq, flashReq := d'.flashReq, flashResult := d'.flashResult, bookReq := d'.bookReq,
      bookResult := d'.bookResult, err := d'.err, sel := d'.sel, buf := d'.buf, repl := d'.repl,
      curBlock := d'.curBlock, rxq := d'.rxq, txq := d'.txq } := by
  have split : d' = { d'.outsideSeq with
      seq := d'.seq, flashReq := d'.flashReq, flashResult := d'.flashResult, bookReq := d'.bookReq,
      bookResult := d'.bookResult, err := d'.err, sel := d'.sel, buf := d'.buf, repl := d'.repl,
      curBlock := d'.curBlock, rxq := d'.rxq, txq := d'.txq } := rfl
  rw [k.outside] at split
  exact split

/-- An edit that leaves the sequencer's point. -/
theorem edit (ho : d'.outsideSeq = d.outsideSeq) (he : d'.err = d.err) (hs : d'.seq = d.seq) : Keeps d d' :=
  ⟨ho, fun _ h => by rwa [he], fun h => by rwa [hs]⟩

/-- An edit that ends at a point outside an election. -/
theorem arrive (ho : d'.outsideSeq = d.outsideSeq) (he : d'.err = d.err) (hp : d'.seq.phase ≠ .negotiating) :
    Keeps d d' :=
  ⟨ho, fun _ h => by rwa [he], fun _ => hp⟩

theorem raise (d : Device) (b : ErrBit) : Keeps d (d.raise b) :=
  ⟨rfl, fun i hi => by simp [hi], fun h => h⟩

theorem recv {x : Byte} (h : d.recv = some (x, d')) : Keeps d d' := by
  obtain ⟨rest, _, rfl⟩ := Device.recv_some h
  exact .edit rfl rfl rfl

theorem send (d : Device) (xs : List Byte) : Keeps d (d.send xs) := .edit rfl rfl rfl

theorem takeFlash (d : Device) : Keeps d d.takeFlash := .edit rfl rfl rfl

theorem takeBook (d : Device) : Keeps d d.takeBook := .edit rfl rfl rfl

theorem writeSpare (d : Device) : Keeps d d.writeSpare := .edit rfl rfl rfl

theorem correctBuf (d : Device) (p : Bool) (syn : BitVec 25) : Keeps d (d.correctBuf p syn) := by
  rcases d.correctBuf_cases p syn with ⟨_, h⟩ | ⟨_, _, h⟩ <;> rw [h]
  exact .edit rfl rfl rfl

theorem checksumTurn (d : Device) (c : ChecksumLoop) (r : FlashResult) : Keeps d (d.checksumTurn c r).1 := by
  have load : Keeps d (d.setBufBytes d.sel 0 (r.bytes.take 528)) := .edit rfl rfl rfl
  unfold Device.checksumTurn
  split
  · dsimp only
    split
    · exact load
    · split <;> exact load.trans (correctBuf _ _ _)
  · rfl

/-! #### The run (43_twin_replication.md R260 to R269) -/

theorem runTo (d : Device) (tw : Bool) (p : RunPoint) : Keeps d (d.runTo tw p) := .arrive rfl rfl nofun

theorem runFlash (d : Device) (tw : Bool) (r : FlashRequest) (p : RunPoint) : Keeps d (d.runFlash tw r p) :=
  .arrive rfl rfl nofun

theorem runBook (d : Device) (tw : Bool) (r : BookRequest) (p : RunPoint) : Keeps d (d.runBook tw r p) :=
  .arrive rfl rfl nofun

theorem abortRun (d : Device) : Keeps d d.abortRun :=
  (raise d .protocol).trans (.arrive rfl rfl nofun)

theorem endRun (d : Device) (r : Repl) : Keeps d (d.endRun r) := .arrive rfl rfl nofun

theorem runStarted (d : Device) (tw : Bool) : Keeps d (d.runStarted tw) := .arrive rfl rfl nofun

theorem sendMark (d : Device) (tw : Bool) (b : Nat) (p : RunPoint) : Keeps d (d.sendMark tw b p) := .arrive rfl rfl nofun

theorem enterBlock (d : Device) (tw : Bool) (b : Nat) : Keeps d (d.enterBlock tw b) := by
  unfold Device.enterBlock
  split <;> exact .arrive rfl rfl nofun

theorem auditJudge (d : Device) (tw : Bool) (b : Nat) (ownSum remote : Option Word) :
    Keeps d (d.auditJudge tw b ownSum remote) := by
  unfold Device.auditJudge
  split
  · exact enterBlock d tw _
  · exact runBook d tw _ _

theorem auditLocal (d : Device) (tw : Bool) (b : Nat) (bad : Bool) (remote : Option Word) :
    Keeps d (d.auditLocal tw b bad remote) := by
  unfold Device.auditLocal
  split
  · exact auditJudge d tw b _ _
  · exact runFlash d tw _ _

theorem auditStart (d : Device) (tw : Bool) (b : Nat) (bad : Bool) : Keeps d (d.auditStart tw b bad) := by
  unfold Device.auditStart
  split
  · exact .arrive rfl rfl nofun
  · split
    · exact runBook d tw _ _
    · exact enterBlock d tw _

theorem afterPara (d : Device) (tw : Bool) (b pg q : Nat) (bad : Bool) : Keeps d (d.afterPara tw b pg q bad) := by
  unfold Device.afterPara
  split
  · exact runTo d tw _
  · exact auditStart d tw b bad

theorem afterProgram (d : Device) (tw : Bool) (b pg q : Nat) (bad : Bool) : Keeps d (d.afterProgram tw b pg q bad) := by
  unfold Device.afterProgram
  split
  · exact runTo d tw _
  · exact afterPara d tw b pg q bad

theorem sendPara (d : Device) (tw : Bool) (b pg q : Nat) : Keeps d (d.sendPara tw b pg q) := by
  unfold Device.sendPara
  split
  · exact .edit rfl rfl rfl
  · rfl

/-- A paragraph starts the stream; everything else it does stays inside the sequencer. -/
theorem paraReady (d : Device) (tw : Bool) (b pg q : Nat) (bad : Bool) :
    Keeps (d.startStream 0 512) (d.paraReady tw b pg q bad) := by
  have spare : Keeps (d.startStream 0 512) (d.swapBuffers.startStream 0 512).writeSpare := .edit rfl rfl rfl
  have ready := spare.trans (sendPara _ tw b pg q)
  unfold Device.paraReady
  dsimp only
  split
  · exact ready.trans (afterProgram _ tw b pg q bad)
  · exact ready.trans (runFlash _ tw _ _)

theorem expect (d : Device) (t : Byte) {k : Device → Device} (hk : ∀ d1, Keeps d1 (k d1)) : Keeps d (d.expect t k) := by
  unfold Device.expect
  split
  · rfl
  · next h =>
    split
    · exact (recv h).trans (hk _)
    · exact (recv h).trans (abortRun _)

theorem auditTurn (d : Device) (tw : Bool) (remote : Option Word) (c : ChecksumLoop) (r : FlashResult) :
    Keeps d (d.auditTurn tw remote c r) := by
  have turn := checksumTurn d c r
  unfold Device.auditTurn
  rcases h : d.checksumTurn c r with ⟨d1, c1 | ⟨ok, sum⟩⟩ <;> rw [h] at turn
  · exact turn.trans (runFlash _ tw _ _)
  · exact turn.trans (auditJudge _ tw _ _ _)

theorem auditToken (d : Device) (tw : Bool) (b : Nat) (bad : Bool) (x : Byte) : Keeps d (d.auditToken tw b bad x) := by
  unfold Device.auditToken
  split
  · exact runTo d tw _
  · split
    · exact auditLocal d tw b bad _
    · exact abortRun d

theorem auditSumByte (d : Device) (tw : Bool) (b : Nat) (bad : Bool) (got : List Byte) (x : Byte) :
    Keeps d (d.auditSumByte tw b bad got x) := by
  unfold Device.auditSumByte
  split
  · exact auditLocal d tw b bad _
  · exact runTo d tw _

/-! #### The slave frame (43_twin_replication.md R277 to R284) -/

theorem slaveTo (d : Device) (f : SlaveFrame) (p : SlavePoint) : Keeps d (d.slaveTo f p) := .arrive rfl rfl nofun

theorem slaveFlash (d : Device) (f : SlaveFrame) (r : FlashRequest) (p : SlavePoint) : Keeps d (d.slaveFlash f r p) :=
  .arrive rfl rfl nofun

theorem slaveBook (d : Device) (f : SlaveFrame) (r : BookRequest) (p : SlavePoint) : Keeps d (d.slaveBook f r p) :=
  .arrive rfl rfl nofun

theorem slaveDone (d : Device) : Keeps d d.slaveDone := .arrive rfl rfl nofun

theorem slaveDesync (d : Device) : Keeps d d.slaveDesync := (raise d .protocol).trans (slaveDone _)

theorem slaveProgram (d : Device) (f : SlaveFrame) : Keeps d (d.slaveProgram f) :=
  (writeSpare d).trans (slaveFlash _ f _ _)

theorem frameComplete (d : Device) (f : SlaveFrame) : Keeps d (d.frameComplete f) := by
  unfold Device.frameComplete
  split
  · unfold Device.beginData
    split
    · split
      · exact slaveBook d f _ _
      · exact slaveProgram d f
    · exact slaveDesync d
  · split
    · unfold Device.reqChecksum
      split
      · exact slaveFlash d f _ _
      · exact slaveDesync d
    · unfold Device.markBlock
      split
      · exact slaveBook d f _ _
      · exact slaveDesync d

theorem payloadByte (d : Device) (f : SlaveFrame) (x : Byte) : Keeps d (d.payloadByte f x) := by
  have stored : Keeps d (d.storePayload f x) := by
    rw [Device.storePayload_eq]; exact .edit rfl rfl rfl
  unfold Device.payloadByte
  dsimp only
  split
  · exact stored.trans (frameComplete _ _)
  · exact stored.trans (slaveTo _ _ _)

theorem firstByte (d : Device) (x : Byte) : Keeps d (d.firstByte x) := by
  unfold Device.firstByte
  split
  · exact .arrive rfl rfl nofun
  · split
    · exact send d _
    · exact raise d _

theorem slaveStart (d : Device) : Keeps d d.slaveStart := by
  unfold Device.slaveStart
  split
  · split
    · next h => exact (recv h).trans (firstByte _ _)
    · rfl
  · rfl

theorem checksumReply (d : Device) (ok : Bool) (sum : Word) : Keeps d (d.checksumReply ok sum) :=
  .arrive rfl rfl nofun

theorem slaveStep (d : Device) (f : SlaveFrame) : Keeps d (d.slaveStep f) := by
  unfold Device.slaveStep
  cases f.point with
  | payload =>
    dsimp only
    split
    · next h => exact (recv h).trans (payloadByte _ f _)
    · rfl
  | checkStarted =>
    dsimp only
    split
    · exact (takeBook d).trans (slaveFlash _ f _ _)
    · exact slaveBook d f _ _
    · rfl
  | setStarted =>
    dsimp only
    split
    · exact (takeBook d).trans (slaveFlash _ f _ _)
    · rfl
  | erasing =>
    dsimp only
    split
    · exact (takeFlash d).trans (slaveProgram _ f)
    · rfl
  | programming =>
    dsimp only
    split
    · exact .arrive rfl rfl nofun
    · rfl
  | checksum c =>
    dsimp only
    split
    · rfl
    · next r _ =>
      have turn := (takeFlash d).trans (checksumTurn d.takeFlash c r)
      rcases h : d.takeFlash.checksumTurn c r with ⟨d1, c1 | ⟨ok, sum⟩⟩ <;> rw [h] at turn
      · exact turn.trans (slaveFlash _ f _ _)
      · exact turn.trans (checksumReply _ _ _)
  | marking =>
    dsimp only
    split
    · exact .arrive rfl rfl nofun
    · rfl

end Device.Keeps

/-- A run's step stays inside the sequencer, or first starts a stream where none is active (43_twin_replication.md R262,
R265). -/
theorem Device.replicateStep_keeps (d : Device) (tw : Bool) (p : RunPoint) :
    d.Keeps (d.replicateStep tw p) ∨
      (d.streamActive = false ∧ (d.startStream 0 512).Keeps (d.replicateStep tw p)) := by
  cases p with
  | firstStream =>
    simp only [Device.replicateStep]
    split
    · exact .inl (.refl d)
    · next h => exact .inr ⟨by simpa using h, .enterBlock _ tw 1⟩
  | fill b pg q bad =>
    simp only [Device.replicateStep]
    split
    · exact .inl (.refl d)
    · next h => exact .inr ⟨by simpa using h, .paraReady d tw b pg q bad⟩
  | checkFinished =>
    left; simp only [Device.replicateStep]
    split
    · exact (Keeps.takeBook d).trans (.endRun _ _)
    · exact .runBook d tw _ _
    · rfl
  | checkStarted =>
    left; simp only [Device.replicateStep]
    split
    · exact (Keeps.takeBook d).trans (.runStarted _ tw)
    · exact .runBook d tw _ _
    · rfl
  | setStarted =>
    left; simp only [Device.replicateStep]
    split
    · exact (Keeps.takeBook d).trans (.runStarted _ tw)
    · rfl
  | status b =>
    left; simp only [Device.replicateStep]
    split
    · split
      · exact (Keeps.takeBook d).trans (.sendMark _ tw b _)
      · exact (Keeps.takeBook d).trans (.enterBlock _ tw _)
    · exact (Keeps.takeBook d).trans (.runFlash _ tw _ _)
    · rfl
  | skipAck b => exact .inl (.expect d _ fun _ => .enterBlock _ tw _)
  | erasing b =>
    left; simp only [Device.replicateStep]
    split
    · exact (Keeps.takeFlash d).trans (.runTo _ tw _)
    · rfl
  | programming b pg q =>
    left; simp only [Device.replicateStep]
    split
    · exact (Keeps.takeFlash d).trans (.afterProgram _ tw b pg q _)
    · rfl
  | dataAck b pg q bad => exact .inl (.expect d _ fun _ => .afterPara _ tw b pg q bad)
  | auditReply b bad =>
    left; simp only [Device.replicateStep]
    split
    · next h => exact (Keeps.recv h).trans (.auditToken _ tw b bad _)
    · rfl
  | auditSum b bad got =>
    left; simp only [Device.replicateStep]
    split
    · next h => exact (Keeps.recv h).trans (.auditSumByte _ tw b bad got _)
    · rfl
  | auditRead remote c =>
    left; simp only [Device.replicateStep]
    split
    · exact (Keeps.takeFlash d).trans (.auditTurn _ tw remote c _)
    · rfl
  | auditMark b =>
    left; simp only [Device.replicateStep]
    split
    · exact (Keeps.takeBook d).trans (.sendMark _ tw b _)
    · rfl
  | markAck b => exact .inl (.expect d _ fun _ => .enterBlock _ tw _)
  | localMark b =>
    left; simp only [Device.replicateStep]
    split
    · exact (Keeps.takeBook d).trans (.enterBlock _ tw _)
    · rfl
  | finishing =>
    left; simp only [Device.replicateStep]
    split
    · exact (Keeps.takeBook d).trans (.endRun _ _)
    · rfl

/-! ### Everything a SEQ step can do -/

/-- What one step of the election can do, with what holds when it does (42_twin_negotiation.md R232 to R239). -/
inductive ElectionMove (d : Device) : Device → Prop where
  | hold (rxq : List Byte) (h : rxq.length ≤ d.rxq.length) : ElectionMove d { d with rxq := rxq }
  | listen (n : Nat) (hn : n ≤ Config.backoffMax) : ElectionMove d (d.listenStart n)
  | sample : ElectionMove d (d.startCycle.goto (.negotiating .sample))
  | ping : ElectionMove d ((d.send [tokPing]).goto (.negotiating .window))
  | decide (rxq : List Byte) (txq : List TxEntry) (r : Conn) (h : rxq.length ≤ d.rxq.length) (hr : r ≠ .collision) :
      ElectionMove d ({ d with rxq := rxq, txq := txq }.negotiated r)
  | collide (rxq : List Byte) (h : rxq.length ≤ d.rxq.length) : ElectionMove d ({ d with rxq := rxq }.collided)

theorem Device.drawnBackoff_le (d : Device) : d.drawnBackoff ≤ Config.backoffMax := by
  unfold Device.drawnBackoff Config.backoffMin Config.backoffMax
  omega

theorem Device.backoffStart_move (d : Device) : ElectionMove d d.backoffStart := by
  unfold Device.backoffStart
  split
  · exact .listen 0 (Nat.zero_le _)
  · exact .sample

theorem Device.negotiateStep_move (d : Device) (p : NegPoint) : ElectionMove d (d.negotiateStep p) := by
  have wait : ElectionMove d d := .hold d.rxq (Nat.le_refl _)
  cases p with
  | settle =>
    simp only [Device.negotiateStep]
    split
    · exact d.backoffStart_move
    · exact wait
  | sample =>
    simp only [Device.negotiateStep]
    split
    · exact .listen _ d.drawnBackoff_le
    · exact wait
  | listen =>
    simp only [Device.negotiateStep]
    rcases d.recv_cases with ⟨_, hr⟩ | ⟨x, rest, hq, hr⟩ <;> rw [hr] <;> dsimp only
    · split
      · exact .ping
      · exact wait
    · have shorter : rest.length ≤ d.rxq.length := by simp [hq]
      split
      · exact .decide rest _ _ shorter nofun
      · exact .hold rest shorter
  | window =>
    simp only [Device.negotiateStep]
    rcases d.recv_cases with ⟨_, hr⟩ | ⟨x, rest, hq, hr⟩ <;> rw [hr] <;> dsimp only
    · split
      · exact .decide d.rxq d.txq _ (Nat.le_refl _) nofun
      · exact wait
    · have shorter : rest.length ≤ d.rxq.length := by simp [hq]
      split
      · exact .decide rest d.txq _ shorter nofun
      · split
        · exact .collide rest shorter
        · exact .hold rest shorter

/-- What one SEQ step can do to the registers outside the sequencer (10_state.md R31). -/
inductive SeqMove (d : Device) : Device → Prop where
  | election (p : NegPoint) {d' : Device} (hp : d.seq = .negotiating p) (m : ElectionMove d d') : SeqMove d d'
  | keeps {d' : Device} (hp : d.seq.phase ≠ .negotiating) (k : d.Keeps d') : SeqMove d d'
  | stream {d' : Device} (hp : d.seq.phase ≠ .negotiating) (hs : d.streamActive = false)
      (k : (d.startStream 0 512).Keeps d') : SeqMove d d'
  | sum {d1 : Device} (sum : Word) (ok : Bool) (hp : d.seq.phase = .checksumming) (k : d.Keeps d1) :
      SeqMove d { d1 with chksum := sum, chkOk := ok, seq := .idle }

theorem Device.checksumStep_move (d : Device) (c : ChecksumLoop) (hp : d.seq.phase = .checksumming) :
    SeqMove d (d.checksumStep c) := by
  have hne : d.seq.phase ≠ .negotiating := by rw [hp]; nofun
  unfold Device.checksumStep
  split
  · exact .keeps hne (.refl d)
  · next r _ =>
    have turn := (Keeps.takeFlash d).trans (.checksumTurn d.takeFlash c r)
    rcases h : d.takeFlash.checksumTurn c r with ⟨d1, c1 | ⟨ok, sum⟩⟩ <;> rw [h] at turn
    · exact .keeps hne (turn.trans (.arrive rfl rfl nofun))
    · exact .sum _ _ hp turn

theorem Device.seqStep_move (d : Device) : SeqMove d d.seqStep := by
  unfold Device.seqStep
  cases hseq : d.seq with
  | idle => exact .keeps (by rw [hseq]; nofun) (.slaveStart d)
  | negotiating p => exact .election p hseq (d.negotiateStep_move p)
  | replicating tw p =>
    have hne : d.seq.phase ≠ .negotiating := by rw [hseq]; nofun
    rcases d.replicateStep_keeps tw p with k | ⟨hs, k⟩
    · exact .keeps hne k
    · exact .stream hne hs k
  | checksumming c => exact d.checksumStep_move c (by rw [hseq]; rfl)
  | slaveFrame f => exact .keeps (by rw [hseq]; nofun) (.slaveStep d f)

end Sys2Proof.Machine
end

section
/-! ### What the collaborators' steps and a correction change -/

namespace Sys2Proof.Machine

theorem Device.correctBuf_eq (d : Device) (p : Bool) (syn : BitVec 25) :
    d.correctBuf p syn = { d with buf := (d.correctBuf p syn).buf } := by
  rcases d.correctBuf_cases p syn with ⟨_, h⟩ | ⟨_, _, h⟩ <;> rw [h]; rfl

theorem Device.eccVerifyEffect_eq (d : Device) (r : Role) :
    d.eccVerifyEffect r = { d with
      buf := (d.eccVerifyEffect r).buf, eccSyn := (d.eccVerifyEffect r).eccSyn,
      eccRes := (d.eccVerifyEffect r).eccRes } := by
  unfold Device.eccVerifyEffect
  dsimp only
  rw [Device.correctBuf_eq]

/-- The TIMER counts NEG_T alone (42_twin_negotiation.md R240). -/
theorem Device.timerStep_eq (d : Device) : d.timerStep = { d with negT := d.timerStep.negT } := by
  unfold Device.timerStep
  split <;> rfl

/-- A byte from the link is queued, or lost with an error (20_memory.md R89). -/
theorem Device.receive_eq (d : Device) (x : Byte) :
    d.receive x = { d with rxq := (d.receive x).rxq, err := (d.receive x).err } := by
  unfold Device.receive
  split <;> rfl

/-- The FLASH step reaches the flash and its port alone (20_memory.md R92). -/
theorem Device.flashStep_eq (d : Device) (ok : Bool) (content : List Byte) :
    d.flashStep ok content = { d with
      flash := (d.flashStep ok content).flash, flashReq := (d.flashStep ok content).flashReq,
      flashResult := (d.flashStep ok content).flashResult } := by
  unfold Device.flashStep
  split <;> rfl

theorem Device.bookEffect_eq (d : Device) (r : BookRequest) :
    d.bookEffect r = { d with usage := (d.bookEffect r).usage, flags := (d.bookEffect r).flags } := by
  cases r <;> rfl

/-- The BOOK step reaches the bookkeeping and its port alone (20_memory.md R96). -/
theorem Device.bookStep_eq (d : Device) :
    d.bookStep = { d with
      usage := d.bookStep.usage, flags := d.bookStep.flags, bookReq := d.bookStep.bookReq,
      bookResult := d.bookStep.bookResult } := by
  unfold Device.bookStep
  split
  · rfl
  · next r _ => dsimp only; rw [Device.bookEffect_eq]

/-- A cycle's end counts afresh whatever the count was (41_rng.md R191). -/
theorem Device.cycleEnd_scount (d : Device) (n : Nat) : { d with scount := n }.cycleEnd = d.cycleEnd := rfl

/-- A cycle's end reaches the rng buffer, the sampler and the stream alone (41_rng.md R191). -/
theorem Device.cycleEnd_eq (d : Device) :
    d.cycleEnd = { d with
      buf := d.cycleEnd.buf, scount := 0, soff := d.cycleEnd.soff, srem := d.cycleEnd.srem,
      streamActive := d.cycleEnd.streamActive, rngArmed := d.cycleEnd.rngArmed, rngDone := d.cycleEnd.rngDone } := by
  unfold Device.cycleEnd
  split
  · dsimp only
    split <;> rfl
  · rfl

/-- The ADC step reaches the accumulators, the rng buffer, the sampler and the stream alone (41_rng.md R190). -/
theorem Device.adcStep_eq (d : Device) (x : Half) :
    d.adcStep x = { d with
      acc := (d.adcStep x).acc, buf := (d.adcStep x).buf, scount := (d.adcStep x).scount, soff := (d.adcStep x).soff,
      srem := (d.adcStep x).srem, streamActive := (d.adcStep x).streamActive, rngArmed := (d.adcStep x).rngArmed,
      rngDone := (d.adcStep x).rngDone } := by
  unfold Device.adcStep
  split
  · dsimp only
    split
    · rw [Device.cycleEnd_eq]; rfl
    · rfl
  · rfl

end Sys2Proof.Machine
end

section
/-! ### The sampler and the stream (10_state.md R43, R46) -/

namespace Sys2Proof.Machine

/-- The fields the stream's invariant speaks of, the others as after reset. -/
def Device.samplerView (d : Device) : Device :=
  { Device.fresh d.params with
    rngArmed := d.rngArmed, rngDone := d.rngDone, scount := d.scount, streamActive := d.streamActive, soff := d.soff,
    srem := d.srem }

namespace Device.StreamInv

variable {d d' : Device}

theorem of_samplerView (h : d.StreamInv) (hv : d'.samplerView = d.samplerView) : d'.StreamInv := by
  have view : d'.samplerView.StreamInv := by
    rw [hv]; exact ⟨h.legal, h.active, h.armed, h.room, h.count, h.done⟩
  exact ⟨view.legal, view.active, view.armed, view.room, view.count, view.done⟩

theorem keeps (h : d.StreamInv) (k : d.Keeps d') : d'.StreamInv :=
  have view := congrArg Device.samplerView k.outside
  h.of_samplerView view

theorem samples_pos (h : d.StreamInv) : 0 < d.params.nSamples := Nat.zero_lt_of_lt h.count

theorem fresh {p : Params} (hp : p.legal = true) : (Device.fresh p).StreamInv := by
  have samples : 0 < p.nSamples := by
    simp only [Params.legal, Bool.and_eq_true, decide_eq_true_eq] at hp
    omega
  exact ⟨hp, by simp [Device.fresh], nofun, Nat.zero_le _, samples, nofun⟩

theorem startCycle (h : d.StreamInv) : d.startCycle.StreamInv :=
  ⟨h.legal, h.active, fun _ => rfl, h.room, h.samples_pos, nofun⟩

theorem startStream (h : d.StreamInv) {off len : Nat} (hl : 0 < len) (hr : off + len ≤ 528) :
    (d.startStream off len).StreamInv :=
  ⟨h.legal, by simpa using hl, fun _ => rfl, hr, h.samples_pos, nofun⟩

theorem bitsStartEffect (h : d.StreamInv) {off len : BitVec 10} (hr : off.toNat + len.toNat ≤ 528) :
    (d.bitsStartEffect off len).StreamInv := by
  unfold Device.bitsStartEffect
  split
  · exact h
  · next hlen => exact h.startStream (by bv_omega) hr

/-- The end of a cycle takes its bytes from those that remain, and the stream ends with the last (41_rng.md R191). -/
theorem cycleEnd (h : d.StreamInv) : d.cycleEnd.StreamInv := by
  have pos := h.samples_pos
  obtain ⟨legal, active, armed, room, _, done⟩ := h
  have fits : d.soff + min 16 d.srem + (d.srem - min 16 d.srem) ≤ 528 := by omega
  unfold Device.cycleEnd
  split
  · next hs =>
    dsimp only
    split
    · next hrem => exact ⟨legal, ⟨fun _ => hrem, fun _ => hs⟩, armed, fits, pos, done⟩
    · next hrem => exact ⟨legal, ⟨nofun, fun hpos => absurd hpos hrem⟩, nofun, fits, pos, fun _ => rfl⟩
  · next hs => exact ⟨legal, active, fun ha => absurd ha hs, room, pos, fun _ => rfl⟩

theorem adcStep (h : d.StreamInv) (x : Half) : (d.adcStep x).StreamInv := by
  unfold Device.adcStep
  split
  · dsimp only
    have sampled : (d.setAcc (d.scount % 8) (rotl16 (d.accWord (d.scount % 8)) 1 ^^^ x)).StreamInv := h.of_samplerView rfl
    split
    · rw [Device.cycleEnd_scount]; exact sampled.cycleEnd
    · next hn =>
      have room : d.scount + 1 < d.params.nSamples := Nat.lt_of_le_of_ne h.count hn
      exact ⟨h.legal, h.active, h.armed, h.room, room, h.done⟩
  · exact h

theorem electionMove (h : d.StreamInv) (m : ElectionMove d d') : d'.StreamInv := by
  cases m with
  | sample => exact h.startCycle.of_samplerView rfl
  | hold | listen | ping | decide | collide => exact h.of_samplerView rfl

theorem seqMove (h : d.StreamInv) (m : SeqMove d d') : d'.StreamInv := by
  cases m with
  | election p hp m => exact h.electionMove m
  | keeps hp k => exact h.keeps k
  | stream hp hs k => exact (h.startStream (by omega) (by omega)).keeps k
  | sum c ok hp k => exact (h.keeps k).of_samplerView rfl

theorem move (m : DeviceMove d d') (h : d.StreamInv) : d'.StreamInv := by
  cases m with
  | same => exact h
  | startCycle => exact h.startCycle
  | startStream off len _ _ hr => exact h.bitsStartEffect hr
  | seq => exact h.seqMove d.seqStep_move
  | adc x => exact h.adcStep x
  | reset draw => exact (fresh h.legal).of_samplerView rfl
  | error | eccGen | swap | negotiate | replicate | checksum | readData | readError | window | eccCode | clearErr
  | transmit | pin => exact h.of_samplerView rfl
  | eccVerify r => exact h.of_samplerView (by rw [Device.eccVerifyEffect_eq]; rfl)
  | timer => exact h.of_samplerView (by rw [Device.timerStep_eq]; rfl)
  | receive x => exact h.of_samplerView (by rw [Device.receive_eq]; rfl)
  | flash ok content => exact h.of_samplerView (by rw [Device.flashStep_eq]; rfl)
  | book => exact h.of_samplerView (by rw [Device.bookStep_eq]; rfl)

end Device.StreamInv

/-- Settles O54: every move of a device keeps its stream's invariant. -/
theorem stepKeepsTheStream : Obligations.StepKeepsTheStream :=
  fun s t hs h => step_keeps_each (fun _ _ => Device.StreamInv.move) s t h hs

end Sys2Proof.Machine
end

section
/-! ### The election (10_state.md R50, 42_twin_negotiation.md R231, R242) -/

namespace Sys2Proof.Machine

theorem Device.timerStep_negT_le {d : Device} (h : d.negT ≤ Config.windowMs) : d.timerStep.negT ≤ Config.windowMs := by
  unfold Device.timerStep
  split
  · exact Nat.min_le_left _ _
  · exact h

theorem Device.cycleEnd_quiet {d : Device} (h : d.streamActive = false) : d.cycleEnd.streamActive = false := by
  unfold Device.cycleEnd
  rw [if_neg (by simp [h])]
  exact h

/-- The ADC starts no stream (41_rng.md R191). -/
theorem Device.adcStep_quiet {d : Device} (x : Half) (h : d.streamActive = false) :
    (d.adcStep x).streamActive = false := by
  unfold Device.adcStep
  split
  · dsimp only
    split
    · exact Device.cycleEnd_quiet h
    · exact h
  · exact h

theorem Device.cycleEnd_sampling {d : Device} (h : d.rngArmed = true ∨ d.rngDone = true) :
    d.cycleEnd.rngArmed = true ∨ d.cycleEnd.rngDone = true := by
  unfold Device.cycleEnd
  split
  · dsimp only
    split
    · exact h
    · exact .inr rfl
  · exact .inr rfl

/-- A sampler that is armed stays armed or ends its cycle, and a cycle that has ended stays so (41_rng.md R191). -/
theorem Device.adcStep_sampling {d : Device} (x : Half) (h : d.rngArmed = true ∨ d.rngDone = true) :
    (d.adcStep x).rngArmed = true ∨ (d.adcStep x).rngDone = true := by
  unfold Device.adcStep
  split
  · dsimp only
    split
    · exact Device.cycleEnd_sampling h
    · exact h
  · exact h

/-- The fields the election's invariant speaks of, the others as after reset. -/
def Device.electionView (d : Device) : Device :=
  { Device.fresh d.params with
    seq := d.seq, rngArmed := d.rngArmed, rngDone := d.rngDone, streamActive := d.streamActive, conn := d.conn,
    negT := d.negT, negD := d.negD, negRounds := d.negRounds }

namespace Device.NegInv

variable {d d' : Device}

theorem of_electionView (h : d.NegInv) (hv : d'.electionView = d.electionView) : d'.NegInv := by
  have view : d'.electionView.NegInv := by
    rw [hv]; exact ⟨h.time, h.backoff, h.rounds, h.quiet, h.undecided, h.colliding, h.sampling⟩
  exact ⟨view.time, view.backoff, view.rounds, view.quiet, view.undecided, view.colliding, view.sampling⟩

/-- Outside an election only the counters' ranges and a connection state other than Collision are claimed. -/
theorem outside (hp : d.seq.phase ≠ .negotiating) (ht : d.negT ≤ Config.windowMs) (hb : d.negD ≤ Config.backoffMax)
    (hr : d.negRounds ≤ 255) (hc : d.conn ≠ .collision) : d.NegInv :=
  ⟨ht, hb, hr, fun h => absurd h hp, fun h => absurd h hp, fun h => absurd h hc, fun h => absurd (by rw [h]; rfl) hp⟩

theorem fresh (p : Params) : (Device.fresh p).NegInv :=
  outside nofun (Nat.zero_le _) (Nat.zero_le _) (Nat.zero_le _) nofun

theorem not_collision (h : d.NegInv) (hp : d.seq.phase ≠ .negotiating) : d.conn ≠ .collision :=
  fun hc => hp (h.colliding hc)

/-- What stays inside the sequencer decides nothing (42_twin_negotiation.md R242). -/
theorem keeps (h : d.NegInv) (hp : d.seq.phase ≠ .negotiating) (k : d.Keeps d') : d'.NegInv := by
  have hp' := k.elects hp
  rw [k.eq_edit] at hp' ⊢
  exact outside hp' h.time h.backoff h.rounds (h.not_collision hp)

theorem startCycle (h : d.NegInv) : d.startCycle.NegInv :=
  ⟨h.time, h.backoff, h.rounds, h.quiet, h.undecided, h.colliding, fun _ => .inl rfl⟩

theorem startStream (h : d.NegInv) (hp : d.seq.phase ≠ .negotiating) (off len : Nat) : (d.startStream off len).NegInv :=
  outside hp h.time h.backoff h.rounds (h.not_collision hp)

/-- An election begins with no stream active (42_twin_negotiation.md R231). -/
theorem negotiateEffect (h : d.NegInv) (hs : d.streamActive = false) (f : Bool) : (d.negotiateEffect f).NegInv :=
  ⟨Nat.zero_le _, h.backoff, Nat.zero_le _, fun _ => hs, fun _ => .inl rfl, nofun, nofun⟩

theorem electionMove (h : d.NegInv) (hp : d.seq.phase = .negotiating) (m : ElectionMove d d') : d'.NegInv := by
  have quiet := h.quiet hp
  have undecided := h.undecided hp
  cases m with
  | hold => exact h.of_electionView rfl
  | listen n hn =>
    exact ⟨Nat.zero_le _, hn, h.rounds, fun _ => quiet, fun _ => undecided, fun _ => rfl, nofun⟩
  | sample =>
    exact ⟨h.time, h.backoff, h.rounds, fun _ => quiet, fun _ => undecided, fun _ => rfl, fun _ => .inl rfl⟩
  | ping => exact ⟨h.time, h.backoff, h.rounds, fun _ => quiet, fun _ => undecided, fun _ => rfl, nofun⟩
  | decide rxq txq r _ hr => exact outside nofun h.time h.backoff h.rounds hr
  | collide =>
    exact ⟨Nat.zero_le _, h.backoff, Nat.min_le_left _ _, fun _ => quiet, fun _ => .inr rfl, fun _ => rfl, nofun⟩

theorem seqMove (h : d.NegInv) (m : SeqMove d d') : d'.NegInv := by
  cases m with
  | election p hp m => exact h.electionMove (by rw [hp]; rfl) m
  | keeps hp k => exact h.keeps hp k
  | stream hp hs k => exact (h.startStream hp 0 512).keeps hp k
  | sum c ok hp k =>
    have hne : d.seq.phase ≠ .negotiating := by rw [hp]; nofun
    have h1 := h.keeps hne k
    exact outside nofun h1.time h1.backoff h1.rounds (h1.not_collision (k.elects hne))

theorem move (m : DeviceMove d d') (h : d.NegInv) : d'.NegInv := by
  have idle (hb : d.busy = false) : d.seq.phase ≠ .negotiating := by rw [Device.busy_eq_false hb]; nofun
  cases m with
  | same => exact h
  | startCycle => exact h.startCycle
  | startStream off len hb =>
    unfold Device.bitsStartEffect
    split
    · exact h
    · exact h.startStream (idle hb) _ _
  | negotiate f _ hs => exact h.negotiateEffect hs f
  | replicate hb => exact outside nofun h.time h.backoff h.rounds (h.not_collision (idle hb))
  | checksum b hb => exact outside nofun h.time h.backoff h.rounds (h.not_collision (idle hb))
  | seq => exact h.seqMove d.seqStep_move
  | adc x =>
    rw [Device.adcStep_eq]
    exact ⟨h.time, h.backoff, h.rounds, fun hp => Device.adcStep_quiet x (h.quiet hp), h.undecided, h.colliding,
      fun hp => Device.adcStep_sampling x (h.sampling hp)⟩
  | timer =>
    rw [Device.timerStep_eq]
    exact ⟨Device.timerStep_negT_le h.time, h.backoff, h.rounds, h.quiet, h.undecided, h.colliding, h.sampling⟩
  | reset draw => exact (fresh d.params).of_electionView rfl
  | error | eccGen | swap | readData | readError | window | eccCode | clearErr | transmit | pin =>
    exact h.of_electionView rfl
  | eccVerify r => exact h.of_electionView (by rw [Device.eccVerifyEffect_eq]; rfl)
  | receive x => exact h.of_electionView (by rw [Device.receive_eq]; rfl)
  | flash ok content => exact h.of_electionView (by rw [Device.flashStep_eq]; rfl)
  | book => exact h.of_electionView (by rw [Device.bookStep_eq]; rfl)

end Device.NegInv

/-- Settles O55: every move of a device keeps its election's invariant. -/
theorem stepKeepsTheElection : Obligations.StepKeepsTheElection :=
  fun s t hs h => step_keeps_each (fun _ _ => Device.NegInv.move) s t h hs

end Sys2Proof.Machine
end

section
/-! ### Addresses outside block 0 (20_memory.md R80, R82) -/

namespace Sys2Proof.Machine

theorem paraIn_iff (n b pg q : Nat) : paraIn n b pg q = true ↔ 1 ≤ b ∧ b < n ∧ pg ≤ 63 ∧ q ≤ 3 := by
  simp [paraIn, and_assoc]

theorem paraIn_block {n b pg q : Nat} (h : paraIn n b pg q = true) : 1 ≤ b ∧ b < n := by
  obtain ⟨hb, hn, _⟩ := (paraIn_iff n b pg q).mp h
  exact ⟨hb, hn⟩

theorem paraIn_first {n b : Nat} (hb : 1 ≤ b) (hn : b < n) : paraIn n b 0 0 = true :=
  (paraIn_iff n b 0 0).mpr ⟨hb, hn, by omega, by omega⟩

/-- The paragraph after one of a block is one of the same block (43_twin_replication.md R270). -/
theorem paraIn_nextPara {n b pg q pg1 q1 : Nat} (h : paraIn n b pg q = true) (hn : nextPara pg q = some (pg1, q1)) :
    paraIn n b pg1 q1 = true := by
  rw [paraIn_iff] at h ⊢
  unfold nextPara at hn
  split at hn
  · cases hn; omega
  · split at hn <;> cases hn
    omega

theorem Device.validAddr_eq (d : Device) (b pg q : Nat) : d.validAddr b pg q = paraIn d.params.blockCount b pg q := rfl

theorem Device.validBlock_paraIn {d : Device} {b : Nat} (h : d.validBlock b = true) :
    paraIn d.params.blockCount b 0 0 = true := by
  simpa [Device.validBlock, paraIn] using h

theorem Device.bufPara_length (d : Device) (p : Bool) : (d.bufPara p).length = 528 := by
  simp [Device.bufPara, Memory.readBytes]

end Sys2Proof.Machine
end

section
/-! ### The sequencer and its ports (10_state.md R33, R48, R55)

Each await is reached in one of three ways: with both ports free, with a flash request just issued, or with a bookkeeping
request just issued. -/

namespace Sys2Proof.Machine

/-- No collaborator request is outstanding and no answer waits (10_state.md R33). -/
structure Device.PortsFree (d : Device) : Prop where
  flashReq : d.flashReq = none
  flashResult : d.flashResult = none
  bookReq : d.bookReq = none
  bookResult : d.bookResult = none

/-- What the sequencer's invariant asks of the await point `p`, apart from the ports. -/
structure Device.MayAwait (d : Device) (p : SeqPoint) : Prop where
  inBlocks : p.inBlocks d.params.blockCount = true
  role : p.roleOk d.conn = true
  running : d.repl = .running ↔ p.running = true
  depth : d.rxq.length ≤ d.params.rxFifoDepth

/-- A run is past `REPL <- Running` and between two awaits (43_twin_replication.md R262). -/
structure Device.InRun (d : Device) (tw : Bool) : Prop where
  free : d.PortsFree
  role : d.conn = if tw then .twinnedMaster else .single
  running : d.repl = .running
  depth : d.rxq.length ≤ d.params.rxFifoDepth

/-- The slave frame handler is between two awaits (43_twin_replication.md R277). -/
structure Device.InFrame (d : Device) : Prop where
  free : d.PortsFree
  role : d.conn = .twinnedSlave
  stopped : d.repl ≠ .running
  depth : d.rxq.length ≤ d.params.rxFifoDepth

/-- The fields the sequencer's invariant speaks of, the others as after reset. -/
def Device.seqView (d : Device) : Device :=
  { Device.fresh d.params with
    seq := d.seq, flashReq := d.flashReq, flashResult := d.flashResult, bookReq := d.bookReq,
    bookResult := d.bookResult, conn := d.conn, repl := d.repl, rxq := d.rxq }

/-- A point of an idle sequencer or of an election: it uses no port. -/
def SeqPoint.Unported (p : SeqPoint) : Prop := p = .idle ∨ ∃ q, p = .negotiating q

namespace SeqPoint.Unported

variable {p : SeqPoint}

theorem awaitsFlash (h : p.Unported) (r : FlashRequest) : p.awaitsFlash r = false := by
  rcases h with rfl | ⟨q, rfl⟩ <;> rfl

theorem awaitsBook (h : p.Unported) (r : BookRequest) : p.awaitsBook r = false := by
  rcases h with rfl | ⟨q, rfl⟩ <;> rfl

theorem inBlocks (h : p.Unported) (n : Nat) : p.inBlocks n = true := by
  rcases h with rfl | ⟨q, rfl⟩ <;> rfl

theorem roleOk (h : p.Unported) (c : Conn) : p.roleOk c = true := by
  rcases h with rfl | ⟨q, rfl⟩ <;> rfl

theorem running (h : p.Unported) : p.running = false := by
  rcases h with rfl | ⟨q, rfl⟩ <;> rfl

end SeqPoint.Unported

/-- No point waits on both ports (10_state.md R33). -/
theorem SeqPoint.awaitsBook_of_awaitsFlash {p : SeqPoint} {r : FlashRequest} (h : p.awaitsFlash r = true)
    (r' : BookRequest) : p.awaitsBook r' = false := by
  cases p with
  | idle | negotiating | checksumming => rfl
  | replicating tw p =>
    cases p with
    | erasing | programming | auditRead => rfl
    | checkFinished | checkStarted | setStarted | firstStream | status | skipAck | fill | dataAck | auditReply | auditSum
    | auditMark | markAck | localMark | finishing => cases h
  | slaveFrame f =>
    obtain ⟨t, l, p⟩ := f
    cases p with
    | erasing | programming | checksum => rfl
    | payload | checkStarted | setStarted | marking => cases h

namespace Device

variable {d d' d1 : Device}

theorem params_of_seqView (hv : d'.seqView = d.seqView) : d'.params = d.params :=
  have h := congrArg Device.params hv
  h

theorem PortsFree.of_seqView (h : d.PortsFree) (hv : d'.seqView = d.seqView) : d'.PortsFree := by
  have view : d'.seqView.PortsFree := by rw [hv]; exact ⟨h.flashReq, h.flashResult, h.bookReq, h.bookResult⟩
  exact ⟨view.flashReq, view.flashResult, view.bookReq, view.bookResult⟩

theorem MayAwait.of_seqView {p : SeqPoint} (h : d.MayAwait p) (hv : d'.seqView = d.seqView) : d'.MayAwait p := by
  have view : d'.seqView.MayAwait p := by rw [hv]; exact ⟨h.inBlocks, h.role, h.running, h.depth⟩
  exact ⟨view.inBlocks, view.role, view.running, view.depth⟩

theorem InRun.of_seqView {tw : Bool} (h : d.InRun tw) (hv : d'.seqView = d.seqView) : d'.InRun tw := by
  have view : d'.seqView.InRun tw := by rw [hv]; exact ⟨h.free.of_seqView rfl, h.role, h.running, h.depth⟩
  exact ⟨view.free.of_seqView rfl, view.role, view.running, view.depth⟩

theorem InFrame.of_seqView (h : d.InFrame) (hv : d'.seqView = d.seqView) : d'.InFrame := by
  have view : d'.seqView.InFrame := by rw [hv]; exact ⟨h.free.of_seqView rfl, h.role, h.stopped, h.depth⟩
  exact ⟨view.free.of_seqView rfl, view.role, view.stopped, view.depth⟩

namespace SeqInv

theorem of_seqView (h : d.SeqInv) (hv : d'.seqView = d.seqView) : d'.SeqInv := by
  have view : d'.seqView.SeqInv := by
    rw [hv]
    exact ⟨h.flashReq, h.flashResult, h.bookReq, h.bookResult, h.inBlocks, h.role, h.running, h.depth⟩
  exact ⟨view.flashReq, view.flashResult, view.bookReq, view.bookResult, view.inBlocks, view.role, view.running,
    view.depth⟩

/-! #### The three ways to an await -/

theorem goto {p : SeqPoint} (hf : d.PortsFree) (hp : d.MayAwait p) : (d.goto p).SeqInv where
  flashReq r hr := by simp [hf.flashReq] at hr
  flashResult x hx := by simp [hf.flashResult] at hx
  bookReq r hr := by simp [hf.bookReq] at hr
  bookResult x hx := by simp [hf.bookResult] at hx
  inBlocks := hp.inBlocks
  role := hp.role
  running := hp.running
  depth := hp.depth

theorem requestFlash {p : SeqPoint} {r : FlashRequest} (hf : d.PortsFree) (hp : d.MayAwait p)
    (ha : p.awaitsFlash r = true) (hr : r.inBlocks d.params.blockCount = true) :
    ((d.requestFlash r).goto p).SeqInv where
  flashReq r' hr' := by
    obtain rfl : r = r' := by simpa using hr'
    exact ⟨ha, hr, rfl⟩
  flashResult x hx := by simp at hx
  bookReq r hr := by simp [hf.bookReq] at hr
  bookResult x hx := by simp [hf.bookResult] at hx
  inBlocks := hp.inBlocks
  role := hp.role
  running := hp.running
  depth := hp.depth

theorem requestBook {p : SeqPoint} {r : BookRequest} (hq : d.flashReq = none) (hx : d.flashResult = none)
    (hp : d.MayAwait p) (ha : p.awaitsBook r = true) : ((d.requestBook r).goto p).SeqInv where
  flashReq r hr := by simp [hq] at hr
  flashResult x hx' := by simp [hx] at hx'
  bookReq r' hr' := by
    obtain rfl : r = r' := by simpa using hr'
    exact ⟨ha, rfl⟩
  bookResult x hx := by simp at hx
  inBlocks := hp.inBlocks
  role := hp.role
  running := hp.running
  depth := hp.depth

/-! #### What holds at an await -/

theorem mayAwait (h : d.SeqInv) : d.MayAwait d.seq := ⟨h.inBlocks, h.role, h.running, h.depth⟩

/-- At a point that waits on no port, the ports are free. -/
theorem portsFree (h : d.SeqInv) (hf : ∀ r, d.seq.awaitsFlash r = false) (hb : ∀ r, d.seq.awaitsBook r = false) :
    d.PortsFree where
  flashReq := Option.eq_none_iff_forall_ne_some.mpr fun r hr => by
    obtain ⟨ha, _⟩ := h.flashReq r hr
    simp [hf] at ha
  flashResult := Option.eq_none_iff_forall_ne_some.mpr fun x hx => by
    obtain ⟨⟨r, ha⟩, _⟩ := h.flashResult x hx
    simp [hf] at ha
  bookReq := Option.eq_none_iff_forall_ne_some.mpr fun r hr => by
    obtain ⟨ha, _⟩ := h.bookReq r hr
    simp [hb] at ha
  bookResult := Option.eq_none_iff_forall_ne_some.mpr fun x hx => by
    obtain ⟨⟨r, ha, _⟩, _⟩ := h.bookResult x hx
    simp [hb] at ha

theorem portsFree_of_unported (h : d.SeqInv) (hs : d.seq.Unported) : d.PortsFree :=
  h.portsFree hs.awaitsFlash hs.awaitsBook

/-- Reading the flash answer frees the ports. -/
theorem takeFlash_free (h : d.SeqInv) {x : FlashResult} (hx : d.flashResult = some x) : d.takeFlash.PortsFree := by
  obtain ⟨⟨r, ha⟩, hq⟩ := h.flashResult x hx
  have hb := SeqPoint.awaitsBook_of_awaitsFlash ha
  refine ⟨hq, rfl, Option.eq_none_iff_forall_ne_some.mpr fun r hr => ?_,
    Option.eq_none_iff_forall_ne_some.mpr fun x hx => ?_⟩
  · obtain ⟨ha', _⟩ := h.bookReq r hr
    simp [hb] at ha'
  · obtain ⟨⟨r', ha', _⟩, _⟩ := h.bookResult x hx
    simp [hb] at ha'

/-- Reading the bookkeeping answer frees the ports. -/
theorem takeBook_free (h : d.SeqInv) {x : BookResult} (hx : d.bookResult = some x) : d.takeBook.PortsFree := by
  obtain ⟨⟨r, ha, _⟩, hq⟩ := h.bookResult x hx
  refine ⟨Option.eq_none_iff_forall_ne_some.mpr fun r' hr => ?_,
    Option.eq_none_iff_forall_ne_some.mpr fun x hx => ?_, hq, rfl⟩
  · obtain ⟨ha', _⟩ := h.flashReq r' hr
    simp [SeqPoint.awaitsBook_of_awaitsFlash ha'] at ha
  · obtain ⟨⟨r', ha'⟩, _⟩ := h.flashResult x hx
    simp [SeqPoint.awaitsBook_of_awaitsFlash ha'] at ha

theorem withRxq (h : d.SeqInv) {rxq : List Byte} (hl : rxq.length ≤ d.params.rxFifoDepth) :
    { d with rxq := rxq }.SeqInv :=
  ⟨h.flashReq, h.flashResult, h.bookReq, h.bookResult, h.inBlocks, h.role, h.running, hl⟩

end SeqInv

/-! #### The checksum loop -/

theorem checksumTurn_seqView (d : Device) (c : ChecksumLoop) (r : FlashResult) :
    (d.checksumTurn c r).1.seqView = d.seqView := by
  unfold Device.checksumTurn
  split
  · dsimp only
    split
    · rfl
    · split <;> rw [Device.correctBuf_eq] <;> rfl
  · rfl

theorem checksumTurn_inBlocks {c c1 : ChecksumLoop} {r : FlashResult} {n : Nat} (h : c.inBlocks n = true)
    (ht : d.checksumTurn c r = (d1, .more c1)) : c1.inBlocks n = true := by
  unfold Device.checksumTurn at ht
  split at ht
  · dsimp only at ht
    split at ht
    · cases ht
    · split at ht <;> cases ht
      next hn => exact paraIn_nextPara h hn
  · cases ht

/-! #### The run (43_twin_replication.md R260 to R269) -/

namespace InRun

variable {tw : Bool}

theorem mayAwait (h : d.InRun tw) {p : RunPoint} (hb : p.inBlocks d.params.blockCount = true)
    (hr : (SeqPoint.replicating tw p).running = true) : d.MayAwait (.replicating tw p) :=
  ⟨hb, decide_eq_true h.role, by simp [h.running, hr], h.depth⟩

theorem runTo (h : d.InRun tw) {p : RunPoint} (hb : p.inBlocks d.params.blockCount = true)
    (hr : (SeqPoint.replicating tw p).running = true) : (d.runTo tw p).SeqInv :=
  SeqInv.goto h.free (h.mayAwait hb hr)

theorem runFlash (h : d.InRun tw) {p : RunPoint} {r : FlashRequest} (hb : p.inBlocks d.params.blockCount = true)
    (hr : (SeqPoint.replicating tw p).running = true) (ha : (SeqPoint.replicating tw p).awaitsFlash r = true)
    (hi : r.inBlocks d.params.blockCount = true) : (d.runFlash tw r p).SeqInv :=
  SeqInv.requestFlash h.free (h.mayAwait hb hr) ha hi

theorem runBook (h : d.InRun tw) {p : RunPoint} {r : BookRequest} (hb : p.inBlocks d.params.blockCount = true)
    (hr : (SeqPoint.replicating tw p).running = true) (ha : (SeqPoint.replicating tw p).awaitsBook r = true) :
    (d.runBook tw r p).SeqInv :=
  SeqInv.requestBook h.free.flashReq h.free.flashResult (h.mayAwait hb hr) ha

theorem recv (h : d.InRun tw) {x : Byte} (hr : d.recv = some (x, d1)) : d1.InRun tw ∧ d1.params = d.params := by
  obtain ⟨rest, hq, rfl⟩ := Device.recv_some hr
  have depth := h.depth
  simp only [hq, List.length_cons] at depth
  exact ⟨⟨⟨h.free.flashReq, h.free.flashResult, h.free.bookReq, h.free.bookResult⟩, h.role, h.running, by
    dsimp only; omega⟩, rfl⟩

end InRun

theorem endRun_seqInv {r : Repl} (hf : d.PortsFree) (hd : d.rxq.length ≤ d.params.rxFifoDepth) (hr : r ≠ .running) :
    (d.endRun r).SeqInv :=
  SeqInv.goto (d := { d with repl := r }) ⟨hf.flashReq, hf.flashResult, hf.bookReq, hf.bookResult⟩
    ⟨rfl, rfl, by simp [hr, SeqPoint.running], hd⟩

theorem abortRun_seqInv {tw : Bool} (h : d.InRun tw) : d.abortRun.SeqInv :=
  (endRun_seqInv (r := .aborted) h.free h.depth nofun).of_seqView rfl

theorem enterBlock_seqInv {tw : Bool} {b : Nat} (h : d.InRun tw) (hb : 1 ≤ b) : (d.enterBlock tw b).SeqInv := by
  unfold Device.enterBlock
  split
  · next hn =>
    have entered : { d with curBlock := BitVec.ofNat 16 b }.InRun tw := h.of_seqView rfl
    exact entered.runBook (paraIn_first hb hn) rfl (decide_eq_true rfl)
  · exact h.runBook rfl rfl rfl

theorem sendMark_seqInv {tw : Bool} {b : Nat} {p : RunPoint} (h : d.InRun tw)
    (hb : p.inBlocks d.params.blockCount = true) (hr : (SeqPoint.replicating tw p).running = true) :
    (d.sendMark tw b p).SeqInv := by
  have sent : (d.send (blockFrame tokMarkBlock b)).InRun tw := h.of_seqView rfl
  exact sent.runTo hb hr

theorem auditJudge_seqInv {tw : Bool} {b : Nat} {ownSum remote : Option Word} (h : d.InRun tw)
    (hb : paraIn d.params.blockCount b 0 0 = true) : (d.auditJudge tw b ownSum remote).SeqInv := by
  unfold Device.auditJudge
  split
  · exact enterBlock_seqInv h (by omega)
  · exact h.runBook hb rfl (decide_eq_true rfl)

theorem auditLocal_seqInv {tw : Bool} {b : Nat} {bad : Bool} {remote : Option Word} (h : d.InRun tw)
    (hb : paraIn d.params.blockCount b 0 0 = true) : (d.auditLocal tw b bad remote).SeqInv := by
  unfold Device.auditLocal
  split
  · exact auditJudge_seqInv h hb
  · exact h.runFlash hb rfl (decide_eq_true rfl) hb

theorem auditStart_seqInv {tw : Bool} {b : Nat} {bad : Bool} (h : d.InRun tw)
    (hb : paraIn d.params.blockCount b 0 0 = true) : (d.auditStart tw b bad).SeqInv := by
  unfold Device.auditStart
  split
  · have sent : (d.send (blockFrame tokReqChksm b)).InRun tw := h.of_seqView rfl
    exact sent.runTo hb rfl
  · split
    · exact h.runBook hb rfl (decide_eq_true rfl)
    · exact enterBlock_seqInv h (by omega)

theorem afterPara_seqInv {tw : Bool} {b pg q : Nat} {bad : Bool} (h : d.InRun tw)
    (hb : paraIn d.params.blockCount b pg q = true) : (d.afterPara tw b pg q bad).SeqInv := by
  unfold Device.afterPara
  split
  · next hn => exact h.runTo (paraIn_nextPara hb hn) rfl
  · obtain ⟨h1, hn⟩ := paraIn_block hb
    exact auditStart_seqInv h (paraIn_first h1 hn)

theorem afterProgram_seqInv {tw : Bool} {b pg q : Nat} {bad : Bool} (h : d.InRun tw)
    (hb : paraIn d.params.blockCount b pg q = true) : (d.afterProgram tw b pg q bad).SeqInv := by
  unfold Device.afterProgram
  split
  · exact h.runTo hb rfl
  · exact afterPara_seqInv h hb

theorem sendPara_seqView (d : Device) (tw : Bool) (b pg q : Nat) : (d.sendPara tw b pg q).seqView = d.seqView := by
  unfold Device.sendPara
  split <;> rfl

theorem paraReady_seqInv {tw : Bool} {b pg q : Nat} {bad : Bool} (h : d.InRun tw)
    (hb : paraIn d.params.blockCount b pg q = true) : (d.paraReady tw b pg q bad).SeqInv := by
  have spare : (d.swapBuffers.startStream 0 512).writeSpare.InRun tw := h.of_seqView rfl
  have ready := spare.of_seqView (sendPara_seqView _ tw b pg q)
  have params : ((d.swapBuffers.startStream 0 512).writeSpare.sendPara tw b pg q).params = d.params :=
    params_of_seqView (sendPara_seqView _ tw b pg q)
  unfold Device.paraReady
  dsimp only
  rw [← params] at hb
  split
  · exact afterProgram_seqInv ready hb
  · exact ready.runFlash hb rfl (decide_eq_true ⟨rfl, rfl, rfl⟩) (by simp [FlashRequest.inBlocks, hb, bufPara_length])

theorem expect_seqInv {tw : Bool} {t : Byte} {k : Device → Device} (h : d.SeqInv) (hr : d.InRun tw)
    (hk : ∀ d1, d1.InRun tw → d1.params = d.params → (k d1).SeqInv) : (d.expect t k).SeqInv := by
  unfold Device.expect
  split
  · exact h
  · next hrecv =>
    obtain ⟨run, params⟩ := hr.recv hrecv
    split
    · exact hk _ run params
    · exact abortRun_seqInv run

theorem auditTurn_seqInv {tw : Bool} {remote : Option Word} {c : ChecksumLoop} {r : FlashResult} (h : d.InRun tw)
    (hc : c.inBlocks d.params.blockCount = true) : (d.auditTurn tw remote c r).SeqInv := by
  have view := checksumTurn_seqView d c r
  unfold Device.auditTurn
  rcases ht : d.checksumTurn c r with ⟨d1, c1 | ⟨ok, sum⟩⟩ <;> rw [ht] at view
  all_goals
    have run : d1.InRun tw := h.of_seqView view
    have params : d1.params = d.params := params_of_seqView view
  · have inNext : c1.inBlocks d1.params.blockCount = true := params ▸ checksumTurn_inBlocks hc ht
    exact run.runFlash inNext rfl (decide_eq_true rfl) inNext
  · obtain ⟨h1, hn⟩ := paraIn_block hc
    exact auditJudge_seqInv run (params ▸ paraIn_first h1 hn)

theorem auditToken_seqInv {tw : Bool} {b : Nat} {bad : Bool} {x : Byte} (h : d.InRun tw)
    (hb : paraIn d.params.blockCount b 0 0 = true) : (d.auditToken tw b bad x).SeqInv := by
  unfold Device.auditToken
  split
  · exact h.runTo (by simp [RunPoint.inBlocks, hb]) rfl
  · split
    · exact auditLocal_seqInv h hb
    · exact abortRun_seqInv h

theorem auditSumByte_seqInv {tw : Bool} {b : Nat} {bad : Bool} {got : List Byte} {x : Byte} (h : d.InRun tw)
    (hb : paraIn d.params.blockCount b 0 0 = true) (hg : got.length ≤ 3) :
    (d.auditSumByte tw b bad got x).SeqInv := by
  unfold Device.auditSumByte
  split
  · exact auditLocal_seqInv h hb
  · next hne =>
    have short : got.length ≠ 3 := fun h3 => by
      obtain ⟨s0, s1, s2, rfl⟩ := List.length_eq_three.mp h3
      exact hne s0 s1 s2 rfl
    exact h.runTo (by simp [RunPoint.inBlocks, hb]; omega) rfl

end Device
end Sys2Proof.Machine
end

section
/-! ### Every step keeps the sequencer (43_twin_replication.md R260 to R284) -/
namespace Sys2Proof.Machine

namespace Device

variable {d d' d1 : Device}

/-- What a run that is past its start has at any of its awaits (43_twin_replication.md R262). -/
theorem SeqInv.inRun {e : Device} {tw : Bool} {p : RunPoint} (h : d.SeqInv) (hs : d.seq = .replicating tw p)
    (hr : (SeqPoint.replicating tw p).running = true) (hf : e.PortsFree) (hc : e.conn = d.conn) (hrepl : e.repl = d.repl)
    (hq : e.rxq = d.rxq) (hp : e.params = d.params) : e.InRun tw := by
  have hrole := h.role
  have hrun := h.running
  rw [hs] at hrole hrun
  exact ⟨hf, hc.trans (of_decide_eq_true hrole), hrepl.trans (hrun.mpr hr), by rw [hq, hp]; exact h.depth⟩

theorem runStarted_seqInv {tw : Bool} (hf : d.PortsFree) (hc : d.conn = if tw then .twinnedMaster else .single)
    (hd : d.rxq.length ≤ d.params.rxFifoDepth) : (d.runStarted tw).SeqInv := by
  have run : { d with repl := .running }.InRun tw :=
    ⟨⟨hf.flashReq, hf.flashResult, hf.bookReq, hf.bookResult⟩, hc, rfl, hd⟩
  exact run.runTo rfl rfl

theorem replicateStep_seqInv {tw : Bool} {p : RunPoint} (h : d.SeqInv) (hs : d.seq = .replicating tw p) :
    (d.replicateStep tw p).SeqInv := by
  have await := h.mayAwait
  rw [hs] at await
  have conn : d.conn = if tw then .twinnedMaster else .single := of_decide_eq_true await.role
  have inBlocks : p.inBlocks d.params.blockCount = true := await.inBlocks
  have free (hf : ∀ r, (SeqPoint.replicating tw p).awaitsFlash r = false)
      (hb : ∀ r, (SeqPoint.replicating tw p).awaitsBook r = false) : d.PortsFree :=
    h.portsFree (by rwa [hs]) (by rwa [hs])
  have took {x : FlashResult} (hx : d.flashResult = some x) (hr : (SeqPoint.replicating tw p).running = true) :
      d.takeFlash.InRun tw := h.inRun hs hr (h.takeFlash_free hx) rfl rfl rfl rfl
  have answered {x : BookResult} (hx : d.bookResult = some x) (hr : (SeqPoint.replicating tw p).running = true) :
      d.takeBook.InRun tw := h.inRun hs hr (h.takeBook_free hx) rfl rfl rfl rfl
  cases p with
  | checkFinished =>
    simp only [Device.replicateStep]
    split
    · next hx => exact endRun_seqInv (h.takeBook_free hx) h.depth nofun
    · next hx =>
      have ports := h.takeBook_free hx
      exact SeqInv.requestBook ports.flashReq ports.flashResult ⟨rfl, await.role, await.running, await.depth⟩ rfl
    · exact h
  | checkStarted =>
    simp only [Device.replicateStep]
    split
    · next hx => exact runStarted_seqInv (h.takeBook_free hx) conn h.depth
    · next hx =>
      have ports := h.takeBook_free hx
      exact SeqInv.requestBook ports.flashReq ports.flashResult ⟨rfl, await.role, await.running, await.depth⟩ rfl
    · exact h
  | setStarted =>
    simp only [Device.replicateStep]
    split
    · next hx => exact runStarted_seqInv (h.takeBook_free hx) conn h.depth
    · exact h
  | firstStream =>
    have run := h.inRun hs rfl (free (fun _ => rfl) fun _ => rfl) rfl rfl rfl rfl
    simp only [Device.replicateStep]
    split
    · exact h
    · have streaming : (d.startStream 0 512).InRun tw := run.of_seqView rfl
      exact enterBlock_seqInv streaming (Nat.le_refl 1)
  | status b =>
    simp only [Device.replicateStep]
    split
    · next hx =>
      split
      · exact sendMark_seqInv (answered hx rfl) inBlocks rfl
      · exact enterBlock_seqInv (answered hx rfl) (by omega)
    · next hx => exact (answered hx rfl).runFlash inBlocks rfl (decide_eq_true rfl) inBlocks
    · exact h
  | skipAck b =>
    have run := h.inRun hs rfl (free (fun _ => rfl) fun _ => rfl) rfl rfl rfl rfl
    exact expect_seqInv h run fun d1 run1 _ => enterBlock_seqInv run1 (by omega)
  | erasing b =>
    simp only [Device.replicateStep]
    split
    · next hx => exact (took hx rfl).runTo inBlocks rfl
    · exact h
  | fill b pg q bad =>
    have run := h.inRun hs rfl (free (fun _ => rfl) fun _ => rfl) rfl rfl rfl rfl
    simp only [Device.replicateStep]
    split
    · exact h
    · exact paraReady_seqInv run inBlocks
  | programming b pg q =>
    simp only [Device.replicateStep]
    split
    · next hx => exact afterProgram_seqInv (took hx rfl) inBlocks
    · exact h
  | dataAck b pg q bad =>
    have run := h.inRun hs rfl (free (fun _ => rfl) fun _ => rfl) rfl rfl rfl rfl
    exact expect_seqInv h run fun d1 run1 params => afterPara_seqInv run1 (params ▸ inBlocks)
  | auditReply b bad =>
    have run := h.inRun hs rfl (free (fun _ => rfl) fun _ => rfl) rfl rfl rfl rfl
    simp only [Device.replicateStep]
    split
    · next hrecv =>
      obtain ⟨run1, params⟩ := run.recv hrecv
      exact auditToken_seqInv run1 (params ▸ inBlocks)
    · exact h
  | auditSum b bad got =>
    have run := h.inRun hs rfl (free (fun _ => rfl) fun _ => rfl) rfl rfl rfl rfl
    simp only [RunPoint.inBlocks, Bool.and_eq_true, decide_eq_true_eq] at inBlocks
    obtain ⟨hb, hg⟩ := inBlocks
    simp only [Device.replicateStep]
    split
    · next hrecv =>
      obtain ⟨run1, params⟩ := run.recv hrecv
      exact auditSumByte_seqInv run1 (params ▸ hb) hg
    · exact h
  | auditRead remote c =>
    simp only [Device.replicateStep]
    split
    · next hx => exact auditTurn_seqInv (took hx rfl) inBlocks
    · exact h
  | auditMark b =>
    simp only [Device.replicateStep]
    split
    · next hx => exact sendMark_seqInv (answered hx rfl) inBlocks rfl
    · exact h
  | markAck b =>
    have run := h.inRun hs rfl (free (fun _ => rfl) fun _ => rfl) rfl rfl rfl rfl
    exact expect_seqInv h run fun d1 run1 _ => enterBlock_seqInv run1 (by omega)
  | localMark b =>
    simp only [Device.replicateStep]
    split
    · next hx => exact enterBlock_seqInv (answered hx rfl) (by omega)
    · exact h
  | finishing =>
    simp only [Device.replicateStep]
    split
    · next hx => exact endRun_seqInv (h.takeBook_free hx) h.depth nofun
    · exact h

/-! #### The slave frame (43_twin_replication.md R277 to R284) -/

namespace InFrame

theorem withRxq (h : d.InFrame) {rxq : List Byte} (hl : rxq.length ≤ d.params.rxFifoDepth) :
    { d with rxq := rxq }.InFrame :=
  ⟨⟨h.free.flashReq, h.free.flashResult, h.free.bookReq, h.free.bookResult⟩, h.role, h.stopped, hl⟩

theorem recv (h : d.InFrame) {x : Byte} (hr : d.recv = some (x, d1)) : d1.InFrame ∧ d1.params = d.params := by
  obtain ⟨rest, hq, rfl⟩ := Device.recv_some hr
  have depth := h.depth
  simp only [hq, List.length_cons] at depth
  exact ⟨h.withRxq (by omega), rfl⟩

theorem mayAwait (h : d.InFrame) {f : SlaveFrame} (hb : f.inBlocks d.params.blockCount = true) :
    d.MayAwait (.slaveFrame f) :=
  ⟨hb, decide_eq_true h.role, by simp [h.stopped, SeqPoint.running], h.depth⟩

variable {f : SlaveFrame} {p : SlavePoint}

theorem slaveTo (h : d.InFrame) (hb : { f with point := p }.inBlocks d.params.blockCount = true) :
    (d.slaveTo f p).SeqInv :=
  SeqInv.goto h.free (h.mayAwait hb)

theorem slaveFlash {r : FlashRequest} (h : d.InFrame) (hb : { f with point := p }.inBlocks d.params.blockCount = true)
    (ha : (SeqPoint.slaveFrame { f with point := p }).awaitsFlash r = true)
    (hi : r.inBlocks d.params.blockCount = true) : (d.slaveFlash f r p).SeqInv :=
  SeqInv.requestFlash h.free (h.mayAwait hb) ha hi

theorem slaveBook {r : BookRequest} (h : d.InFrame) (hb : { f with point := p }.inBlocks d.params.blockCount = true)
    (ha : (SeqPoint.slaveFrame { f with point := p }).awaitsBook r = true) : (d.slaveBook f r p).SeqInv :=
  SeqInv.requestBook h.free.flashReq h.free.flashResult (h.mayAwait hb) ha

theorem slaveDone (h : d.InFrame) : d.slaveDone.SeqInv :=
  SeqInv.goto h.free ⟨rfl, rfl, by simp [h.stopped, SeqPoint.running], h.depth⟩

theorem slaveDesync (h : d.InFrame) : d.slaveDesync.SeqInv := by
  have raised : (d.raise .protocol).InFrame := h.of_seqView rfl
  exact raised.slaveDone

theorem slaveProgram (h : d.InFrame) (ha : paraIn d.params.blockCount f.block f.page f.para = true) :
    (d.slaveProgram f).SeqInv := by
  have spare : d.writeSpare.InFrame := h.of_seqView rfl
  have request : (FlashRequest.program f.block f.page f.para (d.writeSpare.bufPara d.writeSpare.sel)).inBlocks
      d.params.blockCount = true := by simp [FlashRequest.inBlocks, ha, bufPara_length]
  exact spare.slaveFlash ha (decide_eq_true ⟨rfl, rfl, rfl⟩) request

theorem slaveErase (h : d.InFrame) (ha : paraIn d.params.blockCount f.block f.page f.para = true) :
    (d.slaveFlash f (.erase f.block) .erasing).SeqInv := by
  obtain ⟨h1, hn⟩ := paraIn_block ha
  exact h.slaveFlash ha (decide_eq_true rfl) (paraIn_first h1 hn)

theorem frameComplete (h : d.InFrame) (f : SlaveFrame) : (d.frameComplete f).SeqInv := by
  unfold Device.frameComplete
  split
  · unfold Device.beginData
    split
    · next ha =>
      rw [validAddr_eq] at ha
      split
      · exact h.slaveBook ha rfl
      · exact h.slaveProgram ha
    · exact h.slaveDesync
  · split
    · unfold Device.reqChecksum
      split
      · next hb =>
        have valid := validBlock_paraIn hb
        exact h.slaveFlash valid (decide_eq_true rfl) valid
      · exact h.slaveDesync
    · unfold Device.markBlock
      split
      · next hb => exact h.slaveBook (validBlock_paraIn hb) (decide_eq_true rfl)
      · exact h.slaveDesync

/-- A payload byte leaves the frame shorter than its token says, or completes it (30_encoding.md R141). -/
theorem payloadByte (h : d.InFrame) (x : Byte)
    (ht : f.token = tokBeginData ∨ f.token = tokReqChksm ∨ f.token = tokMarkBlock) : (d.payloadByte f x).SeqInv := by
  have stored : (d.storePayload f x).InFrame := h.of_seqView (by rw [Device.storePayload_eq]; rfl)
  unfold Device.payloadByte
  dsimp only
  split
  · exact stored.frameComplete _
  · next hl => exact stored.slaveTo (by simp [SlaveFrame.inBlocks, ht]; simpa using hl)

end InFrame

/-- What the slave frame handler has at any of its awaits (43_twin_replication.md R277). -/
theorem SeqInv.inFrame {e : Device} {f : SlaveFrame} (h : d.SeqInv) (hs : d.seq = .slaveFrame f) (hf : e.PortsFree)
    (hc : e.conn = d.conn) (hrepl : e.repl = d.repl) (hq : e.rxq = d.rxq) (hp : e.params = d.params) : e.InFrame := by
  have hrole := h.role
  have hrun := h.running
  rw [hs] at hrole hrun
  have stopped : e.repl ≠ .running := fun hr => nomatch hrun.mp (hrepl ▸ hr)
  exact ⟨hf, hc.trans (of_decide_eq_true hrole), stopped, by rw [hq, hp]; exact h.depth⟩

theorem checksumReply_seqInv {ok : Bool} {sum : Word} (h : d.InFrame) : (d.checksumReply ok sum).SeqInv := by
  have sent : (d.send (if ok then chksmFrame sum else [tokChksmBad])).InFrame := h.of_seqView rfl
  exact sent.slaveDone

theorem slaveStep_seqInv {f : SlaveFrame} (h : d.SeqInv) (hs : d.seq = .slaveFrame f) : (d.slaveStep f).SeqInv := by
  have inBlocks := h.inBlocks
  rw [hs] at inBlocks
  have took {x : FlashResult} (hx : d.flashResult = some x) : d.takeFlash.InFrame :=
    h.inFrame hs (h.takeFlash_free hx) rfl rfl rfl rfl
  have answered {x : BookResult} (hx : d.bookResult = some x) : d.takeBook.InFrame :=
    h.inFrame hs (h.takeBook_free hx) rfl rfl rfl rfl
  obtain ⟨t, l, p⟩ := f
  cases p with
  | payload =>
    have frame : d.InFrame := h.inFrame hs (h.portsFree (by rw [hs]; intro; rfl) (by rw [hs]; intro; rfl)) rfl rfl rfl rfl
    simp only [SeqPoint.inBlocks, SlaveFrame.inBlocks, Bool.and_eq_true, decide_eq_true_eq] at inBlocks
    obtain ⟨token, _⟩ := inBlocks
    simp only [Device.slaveStep]
    split
    · next hrecv =>
      obtain ⟨frame1, _⟩ := frame.recv hrecv
      exact frame1.payloadByte _ token
    · exact h
  | checkStarted =>
    simp only [Device.slaveStep]
    split
    · next hx => exact (answered hx).slaveErase inBlocks
    · next hx =>
      have ports := h.takeBook_free hx
      have stay := h.mayAwait
      rw [hs] at stay
      exact SeqInv.requestBook ports.flashReq ports.flashResult ⟨inBlocks, stay.role, stay.running, stay.depth⟩ rfl
    · exact h
  | setStarted =>
    simp only [Device.slaveStep]
    split
    · next hx => exact (answered hx).slaveErase inBlocks
    · exact h
  | erasing =>
    simp only [Device.slaveStep]
    split
    · next hx => exact (took hx).slaveProgram inBlocks
    · exact h
  | programming =>
    simp only [Device.slaveStep]
    split
    · next hx =>
      have sent : (d.takeFlash.send [tokDataAck]).InFrame := (took hx).of_seqView rfl
      exact sent.slaveDone
    · exact h
  | checksum c =>
    simp only [Device.slaveStep]
    split
    · exact h
    · next r hx =>
      have view := checksumTurn_seqView d.takeFlash c r
      rcases ht : d.takeFlash.checksumTurn c r with ⟨d1, c1 | ⟨ok, sum⟩⟩ <;> rw [ht] at view
      all_goals have frame : d1.InFrame := (took hx).of_seqView view
      · have inNext : c1.inBlocks d1.params.blockCount = true := params_of_seqView view ▸ checksumTurn_inBlocks inBlocks ht
        exact frame.slaveFlash inNext (decide_eq_true rfl) inNext
      · exact checksumReply_seqInv frame
  | marking =>
    simp only [Device.slaveStep]
    split
    · next hx =>
      have sent : (d.takeBook.send [tokMarkAck]).InFrame := (answered hx).of_seqView rfl
      exact sent.slaveDone
    · exact h

/-- The handler, enabled by the role, takes a frame's first byte (43_twin_replication.md R277). -/
theorem slaveStart_seqInv (h : d.SeqInv) (hs : d.seq = .idle) : d.slaveStart.SeqInv := by
  unfold Device.slaveStart
  split
  · next hc =>
    rcases d.recv_cases with ⟨_, hr⟩ | ⟨x, rest, hq, hr⟩ <;> rw [hr] <;> dsimp only
    · exact h
    · have depth : rest.length ≤ d.params.rxFifoDepth := by
        have := h.depth
        simp only [hq, List.length_cons] at this
        omega
      have stopped : d.repl ≠ .running := fun hrun => by simpa [hs, SeqPoint.running] using h.running.mp hrun
      have ports := h.portsFree_of_unported (.inl hs)
      have frame : { d with rxq := rest }.InFrame := InFrame.withRxq ⟨ports, hc, stopped, h.depth⟩ depth
      have idle : { d with rxq := rest }.SeqInv := h.withRxq depth
      unfold Device.firstByte
      split
      · next ht =>
        have short : 0 < payloadLength x := by rcases ht with rfl | rfl | rfl <;> decide
        exact SeqInv.goto frame.free (frame.mayAwait (by simp [SlaveFrame.inBlocks, ht, short]))
      · split
        · exact idle.of_seqView rfl
        · exact idle.of_seqView rfl
  · exact h

/-! #### The block checksum (43_twin_replication.md R272) -/

theorem mayAwait_checksumming {c : ChecksumLoop} (hc : c.inBlocks d.params.blockCount = true)
    (hr : d.repl ≠ .running) (hd : d.rxq.length ≤ d.params.rxFifoDepth) : d.MayAwait (.checksumming c) :=
  ⟨hc, rfl, by simp [hr, SeqPoint.running], hd⟩

theorem checksumStep_seqInv {c : ChecksumLoop} (h : d.SeqInv) (hs : d.seq = .checksumming c) :
    (d.checksumStep c).SeqInv := by
  have await := h.mayAwait
  rw [hs] at await
  have stopped : d.repl ≠ .running := fun hrun => nomatch await.running.mp hrun
  unfold Device.checksumStep
  split
  · exact h
  · next r hx =>
    have view := checksumTurn_seqView d.takeFlash c r
    rcases ht : d.takeFlash.checksumTurn c r with ⟨d1, c1 | ⟨ok, sum⟩⟩ <;> rw [ht] at view
    all_goals have free : d1.PortsFree := (h.takeFlash_free hx).of_seqView view
    · have inNext : c1.inBlocks d.params.blockCount = true := checksumTurn_inBlocks await.inBlocks ht
      have stay : d.takeFlash.MayAwait (.checksumming c1) := mayAwait_checksumming inNext stopped h.depth
      exact SeqInv.requestFlash free (stay.of_seqView view) (decide_eq_true rfl) (params_of_seqView view ▸ inNext)
    · have stay : d.takeFlash.MayAwait .idle := ⟨rfl, rfl, by simp [stopped, SeqPoint.running], h.depth⟩
      exact (SeqInv.goto free (stay.of_seqView view)).of_seqView rfl

/-! #### The election (42_twin_negotiation.md R230 to R239) -/

/-- An idle sequencer and an election move among points that use no port, and write CONN freely. -/
theorem SeqInv.unported_goto {q : SeqPoint} (h : d.SeqInv) (hs : d.seq.Unported) (hq : q.Unported) (conn : Conn)
    {rxq : List Byte} (hl : rxq.length ≤ d.rxq.length) : ({ d with conn := conn, rxq := rxq }.goto q).SeqInv := by
  have ports := h.portsFree_of_unported hs
  refine SeqInv.goto ⟨ports.flashReq, ports.flashResult, ports.bookReq, ports.bookResult⟩
    ⟨hq.inBlocks _, hq.roleOk _, ?_, hl.trans h.depth⟩
  have running := h.running
  rwa [hs.running, ← hq.running] at running

theorem electionMove_seqInv (h : d.SeqInv) (hs : d.seq.Unported) (m : ElectionMove d d') : d'.SeqInv := by
  cases m with
  | hold rxq hl => exact h.withRxq (hl.trans h.depth)
  | listen | sample | ping => exact (h.unported_goto hs (.inr ⟨_, rfl⟩) d.conn (Nat.le_refl _)).of_seqView rfl
  | decide rxq txq r hl => exact (h.unported_goto hs (.inl rfl) r hl).of_seqView rfl
  | collide rxq hl => exact (h.unported_goto hs (.inr ⟨_, rfl⟩) .collision hl).of_seqView rfl

theorem seqStep_seqInv (h : d.SeqInv) : d.seqStep.SeqInv := by
  unfold Device.seqStep
  cases hs : d.seq with
  | idle => exact slaveStart_seqInv h hs
  | negotiating p => exact electionMove_seqInv h (.inr ⟨p, hs⟩) (d.negotiateStep_move p)
  | replicating tw p => exact replicateStep_seqInv h hs
  | checksumming c => exact checksumStep_seqInv h hs
  | slaveFrame f => exact slaveStep_seqInv h hs

/-! #### Commands and collaborators -/

theorem replicateEffect_seqInv (h : d.SeqInv) (hs : d.seq = .idle) (hc : d.conn = .single ∨ d.conn = .twinnedMaster) :
    d.replicateEffect.SeqInv := by
  have ports := h.portsFree_of_unported (.inl hs)
  have running := h.running
  rw [hs] at running
  have role : d.conn = if decide (d.conn = .twinnedMaster) then .twinnedMaster else .single := by
    rcases hc with hc | hc <;> simp [hc]
  have depth : (if decide (d.conn = .twinnedMaster) then [] else d.rxq).length ≤ d.params.rxFifoDepth := by
    split
    · exact Nat.zero_le _
    · exact h.depth
  exact SeqInv.requestBook (d := { d with rxq := if decide (d.conn = .twinnedMaster) then [] else d.rxq })
    ports.flashReq ports.flashResult ⟨rfl, decide_eq_true role, running, depth⟩ rfl

theorem blockChecksumEffect_seqInv {b : Half} (h : d.SeqInv) (hs : d.seq = .idle)
    (hb : 1 ≤ b.toNat ∧ b.toNat < d.params.blockCount) : (d.blockChecksumEffect b).SeqInv := by
  have ports := h.portsFree_of_unported (.inl hs)
  have stopped : d.repl ≠ .running := fun hrun => by simpa [hs, SeqPoint.running] using h.running.mp hrun
  have inBlocks : (checksumStart b.toNat).inBlocks d.params.blockCount = true := paraIn_first hb.1 hb.2
  exact SeqInv.requestFlash (d := { d with curBlock := b }) (ports.of_seqView rfl)
    (mayAwait_checksumming inBlocks stopped h.depth) (decide_eq_true rfl) inBlocks

/-- A completed flash request leaves its answer (20_memory.md R92). -/
theorem SeqInv.flashAnswered (h : d.SeqInv) {r : FlashRequest} (hr : d.flashReq = some r) (x : FlashResult) :
    { d with flashReq := none, flashResult := some x }.SeqInv := by
  obtain ⟨ha, _⟩ := h.flashReq r hr
  exact ⟨nofun, fun _ _ => ⟨⟨r, ha⟩, rfl⟩, h.bookReq, h.bookResult, h.inBlocks, h.role, h.running, h.depth⟩

theorem flashStep_seqInv (h : d.SeqInv) (ok : Bool) (content : List Byte) : (d.flashStep ok content).SeqInv := by
  unfold Device.flashStep
  split
  · exact h
  all_goals next hr => exact (h.flashAnswered hr _).of_seqView rfl

/-- The bookkeeping collaborator answers in the form its request asks for (20_memory.md R96). -/
theorem bookAnswer_answers (d : Device) (r : BookRequest) : r.answers (d.bookAnswer r) = true := by
  cases r <;> rfl

theorem bookStep_seqInv (h : d.SeqInv) : d.bookStep.SeqInv := by
  unfold Device.bookStep
  split
  · exact h
  · next r hr =>
    obtain ⟨ha, _⟩ := h.bookReq r hr
    have answered : { d with bookReq := none, bookResult := some (d.bookAnswer r) }.SeqInv :=
      ⟨h.flashReq, h.flashResult, nofun,
        fun x hx => ⟨⟨r, ha, Option.some.inj hx ▸ d.bookAnswer_answers r⟩, rfl⟩,
        h.inBlocks, h.role, h.running, h.depth⟩
    rw [Device.bookEffect_eq]
    exact answered.of_seqView rfl

theorem receive_seqInv (h : d.SeqInv) (x : Byte) : (d.receive x).SeqInv := by
  unfold Device.receive
  split
  · next hl => exact h.withRxq (by simpa using hl)
  · exact h.of_seqView rfl

theorem SeqInv.fresh (p : Params) : (Device.fresh p).SeqInv :=
  ⟨nofun, nofun, nofun, nofun, rfl, rfl, ⟨nofun, nofun⟩, Nat.zero_le _⟩

theorem SeqInv.move (m : DeviceMove d d') (h : d.SeqInv) : d'.SeqInv := by
  cases m with
  | same => exact h
  | startStream off len =>
    unfold Device.bitsStartEffect
    split
    · exact h
    · exact h.of_seqView rfl
  | negotiate f hb =>
    exact (h.unported_goto (.inl (Device.busy_eq_false hb)) (.inr ⟨_, rfl⟩) .indeterminate
      (Nat.le_refl _)).of_seqView rfl
  | replicate hb hc => exact replicateEffect_seqInv h (Device.busy_eq_false hb) hc
  | checksum b hb hr => exact blockChecksumEffect_seqInv h (Device.busy_eq_false hb) hr
  | seq => exact seqStep_seqInv h
  | receive x => exact receive_seqInv h x
  | flash ok content => exact flashStep_seqInv h ok content
  | book => exact bookStep_seqInv h
  | reset draw => exact (SeqInv.fresh d.params).of_seqView rfl
  | error | eccGen | startCycle | swap | readData | readError | window | eccCode | clearErr | transmit | pin =>
    exact h.of_seqView rfl
  | eccVerify r => exact h.of_seqView (by rw [Device.eccVerifyEffect_eq]; rfl)
  | adc x => exact h.of_seqView (by rw [Device.adcStep_eq]; rfl)
  | timer => exact h.of_seqView (by rw [Device.timerStep_eq]; rfl)

end Device

/-- Settles O56: every move of a device keeps its sequencer's invariant. -/
theorem stepKeepsTheSequencer : Obligations.StepKeepsTheSequencer :=
  fun s t hs h => step_keeps_each (fun _ _ => Device.SeqInv.move) s t h hs

end Sys2Proof.Machine
end

section
/-! ### Which agent writes which register (10_state.md R36 to R53, 60_exceptions.md R340) -/

namespace Sys2Proof.Machine

/-! #### The words of the ECC commands and the offsets of the registers (30_encoding.md R120 to R122) -/

/-- A word whose argument has no bit but bit 0 is its opcode and that bit. -/
theorem op_append_bit_eq_word {w : Word} {op : Byte} (hop : opOf w = op) (hr : w.extractLsb' 1 23 = 0) :
    op ++ (BitVec.ofBool (w.getLsbD 0)).setWidth 24 = w := by
  subst hop
  apply BitVec.eq_of_getLsbD_eq
  intro i hi
  rw [BitVec.getLsbD_append]
  split
  · next h24 =>
    rcases Nat.eq_zero_or_pos i with rfl | hpos
    · simp
    · have shifted : 1 + (i - 1) = i := by omega
      have clear : w.getLsbD i = false := by
        have bit := congrArg (fun v : BitVec 23 => v.getLsbD (i - 1)) hr
        simpa [BitVec.getLsbD_extractLsb', shifted, show i - 1 < 23 by omega] using bit
      simp [clear, h24]
      omega
  · next h24 =>
    have shifted : 24 + (i - 24) = i := by omega
    simp [opOf, shifted, show i - 24 < 8 by omega]

theorem checkReserved_ok {op : Byte} {n : Nat} {reserved : BitVec n} {i j : Instr}
    (h : checkReserved op reserved i = .ok j) : reserved = 0 ∧ i = j := by
  unfold checkReserved at h
  split at h <;> cases h
  next hr => exact ⟨hr, rfl⟩

theorem bitOfRole_roleOfBit (b : Bool) : bitOfRole (roleOfBit b) = b := by cases b <;> rfl

/-- The word of an ECC command is the one its encoder gives (30_encoding.md R129). -/
theorem encode_of_decode_ecc {w : Word} {i : Instr} (h : decode w = .ok i)
    (hi : (∃ r, i = .eccGen r) ∨ ∃ r, i = .eccVerify r) : encode i = w := by
  unfold decode at h
  dsimp only at h
  split at h
  case h_2 hop =>
    obtain ⟨hr, rfl⟩ := checkReserved_ok h
    rw [encode, argument, bitOfRole_roleOfBit]
    exact op_append_bit_eq_word (BitVec.eq_of_toNat_eq hop) hr
  case h_3 hop =>
    obtain ⟨hr, rfl⟩ := checkReserved_ok h
    rw [encode, argument, bitOfRole_roleOfBit]
    exact op_append_bit_eq_word (BitVec.eq_of_toNat_eq hop) hr
  case h_10 => cases h
  all_goals
    obtain ⟨_, rfl⟩ := checkReserved_ok h
    rcases hi with ⟨_, hi⟩ | ⟨_, hi⟩ <;> cases hi

/-- CMD, ECC_CODE and ERR are at one offset each (30_encoding.md R120). -/
theorem targetAt_register (n : Nat) :
    (targetAt n = .cmd → n = 0x000) ∧ (targetAt n = .eccCode → n = 0x008) ∧ (targetAt n = .err → n = 0x010) := by
  rcases Nat.lt_or_ge n 0x30 with hn | hn
  · revert n
    decide
  · rw [targetAt_high hn]
    split
    · exact ⟨nofun, nofun, nofun⟩
    · split <;> exact ⟨nofun, nofun, nofun⟩

theorem targetOf_register (a : Offset) :
    (targetOf a = .cmd → a = 0x000) ∧ (targetOf a = .eccCode → a = 0x008) ∧ (targetOf a = .err → a = 0x010) := by
  obtain ⟨cmd, eccCode, err⟩ := targetAt_register a.toNat
  exact ⟨fun h => BitVec.eq_of_toNat_eq (cmd h), fun h => BitVec.eq_of_toNat_eq (eccCode h),
    fun h => BitVec.eq_of_toNat_eq (err h)⟩

/-! #### The writers of each register -/

/-- Each register of `d` that reads otherwise in `d'` is one its agent's action `a` writes. A field that is not
given says that its register is as it was. -/
structure RegisterWriters (a : Action) (d d' : Device) : Prop where
  params : d'.params = d.params := by rfl
  acc : d'.acc ≠ d.acc → (∃ x, a = .adc x ∧ d.rngArmed = true) ∨ ∃ r, a = .reset r := by
    exact fun h => absurd rfl h
  ecc : d'.eccSyn ≠ d.eccSyn ∨ d'.eccRes ≠ d.eccRes →
      (∃ r, a = .host (.write32 0x000 (encode (.eccVerify r)))) ∨ ∃ r, a = .reset r := by
    exact fun h => h.elim (absurd rfl) (absurd rfl)
  eccCode : d'.eccCode ≠ d.eccCode →
      (∃ r, a = .host (.write32 0x000 (encode (.eccGen r)))) ∨ (∃ v, a = .host (.write32 0x008 v)) ∨
        ∃ r, a = .reset r := by
    exact fun h => absurd rfl h
  chksum : d'.chksum ≠ d.chksum ∨ d'.chkOk ≠ d.chkOk →
      (a = .seq ∧ d.seq.phase = .checksumming) ∨ ∃ r, a = .reset r := by
    exact fun h => h.elim (absurd rfl) (absurd rfl)
  flash : d'.flash ≠ d.flash →
      (∃ ok c, a = .flash ok c ∧ d.flashReq ≠ none) ∨ ∃ r, a = .reset r ∧ d.flashReq ≠ none := by
    exact fun h => absurd rfl h
  book : d'.usage ≠ d.usage ∨ d'.flags ≠ d.flags → d.bookReq ≠ none ∧ (a = .book ∨ ∃ r, a = .reset r) := by
    exact fun h => h.elim (absurd rfl) (absurd rfl)
  pin : d'.usbHost ≠ d.usbHost → ∃ l, a = .usbHost l := by
    exact fun h => absurd rfl h
  err : ∀ i, d.err.getLsbD i = true → d'.err.getLsbD i = false →
      (∃ v : Word, a = .host (.write32 0x010 v) ∧ v.getLsbD i = true) ∨ ∃ r, a = .reset r := by
    exact fun i h h' => absurd (h.symm.trans h') nofun

theorem raise_writers (a : Action) (d : Device) (e : ErrBit) : RegisterWriters a d (d.raise e) where
  err i h h' := by simp [h] at h'

theorem issue_writers {a : Action} {d effect : Device} {inRange : Bool} {own : Option ErrBit}
    (h : RegisterWriters a d effect) : RegisterWriters a d (d.issue inRange own effect) := by
  rcases d.issue_cases inRange own effect with ⟨_, e⟩ | ⟨_, _, e⟩ | ⟨b, _, _, _, e⟩ | ⟨_, _, _, e⟩ <;> rw [e]
  · exact raise_writers a d _
  · exact raise_writers a d _
  · exact raise_writers a d _
  · exact h

/-- Of the commands only ECC_GEN and ECC_VERIFY write a register of this list (40_ecc.md R168). -/
theorem exec_writers {w : Word} {i : Instr} (h : decode w = .ok i) (s : State) :
    ∃ d, exec i s = .next (s.withDev d) ∧ RegisterWriters (.host (.write32 0x000 w)) s.dev d := by
  cases i with
  | nop => exact ⟨s.dev, rfl, {}⟩
  | eccGen r =>
    have hw := encode_of_decode_ecc h (.inl ⟨r, rfl⟩)
    exact ⟨_, rfl, issue_writers { eccCode := fun _ => .inl ⟨r, by rw [hw]⟩ }⟩
  | eccVerify r =>
    have hw := encode_of_decode_ecc h (.inr ⟨r, rfl⟩)
    refine ⟨_, rfl, issue_writers ?_⟩
    rw [Device.eccVerifyEffect_eq]
    exact { ecc := fun _ => .inl ⟨r, by rw [hw]⟩ }
  | rngStart => exact ⟨_, rfl, issue_writers {}⟩
  | rngBitsStart off len =>
    refine ⟨_, rfl, issue_writers ?_⟩
    unfold Device.bitsStartEffect
    split <;> exact {}
  | bufSwap => exact ⟨_, rfl, issue_writers {}⟩
  | twinNegotiate f => exact ⟨_, rfl, issue_writers {}⟩
  | twinReplicate => exact ⟨_, rfl, issue_writers {}⟩
  | blockChecksum b => exact ⟨_, rfl, issue_writers {}⟩

theorem issueCommand_writers (w : Word) (s : State) :
    ∃ d, issueCommand w s = .next (s.withDev d) ∧ RegisterWriters (.host (.write32 0x000 w)) s.dev d := by
  unfold issueCommand
  split
  · next h => exact exec_writers h s
  · next r _ =>
    refine ⟨_, rfl, ?_⟩
    rcases s.dev.rejectCommand_cases r with h | h | h <;> rw [h] <;> exact raise_writers _ _ _

theorem mmioRead_writers (a : Action) (d : Device) (o : Offset) (n : Width) : RegisterWriters a d (d.mmioRead o n) := by
  unfold Device.mmioRead
  split
  · exact {}
  · exact { err := (raise_writers a d .access).err }

theorem mmioWrite8_writers (a : Action) (d : Device) (o : Offset) (v : Byte) :
    RegisterWriters a d (d.mmioWrite8 o v) := by
  unfold Device.mmioWrite8
  split
  · split
    · unfold Device.writeNand
      split
      · exact raise_writers a d _
      · exact {}
    · unfold Device.writeRng
      split
      · exact raise_writers a d _
      · split
        · exact raise_writers a d _
        · exact {}
    · exact {}
  · exact raise_writers a d _

/-- A word write to a register sets ECC_CODE, or clears the error bits it names (44_register_access.md R314, R316). -/
theorem mmioWrite32_writers (d : Device) (o : Offset) (v : Word) :
    RegisterWriters (.host (.write32 o v)) d (d.mmioWrite32 o v) := by
  obtain ⟨_, eccCode, err⟩ := targetOf_register o
  unfold Device.mmioWrite32
  split
  · split
    · next ht => exact { eccCode := fun _ => .inr (.inl ⟨v, by rw [eccCode ht]⟩) }
    · next ht =>
      exact { err := fun i h h' => .inl ⟨v, by rw [err ht], by simpa [h, BitVec.lt_of_getLsbD h] using h'⟩ }
    · exact {}
  · exact raise_writers _ d _

theorem hostStep_writers (acc : Access) (s : State) :
    ∃ d, hostStep acc s = .next (s.withDev d) ∧ RegisterWriters (.host acc) s.dev d := by
  cases acc with
  | read o n => exact ⟨_, rfl, mmioRead_writers _ _ o n⟩
  | write8 o v => exact ⟨_, rfl, mmioWrite8_writers _ _ o v⟩
  | write32 o v =>
    simp only [hostStep]
    split
    · next ht =>
      obtain ⟨cmd, _⟩ := targetOf_register o
      rw [cmd ht]
      exact issueCommand_writers v s
    · exact ⟨_, rfl, mmioWrite32_writers _ o v⟩

/-- No SEQ step writes a register of this list, but for a block checksum's result (43_twin_replication.md R272). -/
theorem seqMove_writers {d d' : Device} (m : SeqMove d d') : RegisterWriters .seq d d' := by
  cases m with
  | election p hp m => cases m <;> exact {}
  | keeps hp k =>
    rw [k.eq_edit]
    exact { err := fun i h h' => (k.not_cleared h h').elim }
  | stream hp hs k =>
    rw [k.eq_edit]
    exact { err := fun i h h' => (k.not_cleared h h').elim }
  | @sum d1 sum ok hp k =>
    rw [k.eq_edit]
    exact { chksum := fun _ => .inl ⟨rfl, hp⟩, err := fun i h h' => (k.not_cleared h h').elim }

theorem adcStep_writers (d : Device) (x : Half) : RegisterWriters (.adc x) d (d.adcStep x) := by
  by_cases ha : d.rngArmed = true
  · rw [Device.adcStep_eq]
    exact { acc := fun _ => .inl ⟨x, rfl, ha⟩ }
  · rw [Device.adcStep, if_neg ha]
    exact {}

theorem receive_writers (a : Action) (d : Device) (x : Byte) : RegisterWriters a d (d.receive x) := by
  unfold Device.receive
  split
  · exact {}
  · exact raise_writers a d _

theorem flashStep_writers (d : Device) (ok : Bool) (content : List Byte) :
    RegisterWriters (.flash ok content) d (d.flashStep ok content) := by
  by_cases hq : d.flashReq = none
  · rw [Device.flashStep, hq]
    exact {}
  · rw [Device.flashStep_eq]
    exact { flash := fun _ => .inl ⟨ok, content, rfl, hq⟩ }

theorem bookStep_writers (d : Device) : RegisterWriters .book d d.bookStep := by
  by_cases hq : d.bookReq = none
  · rw [Device.bookStep, hq]
    exact {}
  · rw [Device.bookStep_eq]
    exact { book := fun _ => ⟨hq, .inl rfl⟩ }

theorem Device.dropFlash_of_none {d : Device} (content : List Byte) (hq : d.flashReq = none) :
    d.dropFlash content = d := by
  rw [Device.dropFlash, hq]

theorem Device.dropFlash_eq (d : Device) (content : List Byte) :
    d.dropFlash content = { d with flash := (d.dropFlash content).flash } := by
  rcases d.dropFlash_cases content with ⟨_, _, h⟩ | ⟨_, _, _, _, _, h⟩ | ⟨_, h⟩ <;> rw [h] <;> rfl

theorem Device.dropBook_eq (d : Device) (took : Bool) :
    d.dropBook took = { d with usage := (d.dropBook took).usage, flags := (d.dropBook took).flags } := by
  unfold Device.dropBook
  split
  · split
    · exact d.bookEffect_eq _
    · rfl
  · rfl

/-- With no flash request outstanding a RESET keeps the flash (70_reset_and_hazards.md R371, R372). -/
theorem resetStep_flash {d : Device} (draw : ResetDraw) (hq : d.flashReq = none) :
    (d.resetStep draw).flash = d.flash := by
  unfold Device.resetStep
  dsimp only
  rw [Device.dropBook_eq, Device.dropFlash_of_none _ hq]

/-- With no bookkeeping request outstanding a RESET keeps the bookkeeping (70_reset_and_hazards.md R371, R372). -/
theorem resetStep_book {d : Device} (draw : ResetDraw) (hq : d.bookReq = none) :
    (d.resetStep draw).usage = d.usage ∧ (d.resetStep draw).flags = d.flags := by
  unfold Device.resetStep
  dsimp only
  rw [Device.dropFlash_eq, Device.dropBook, hq]
  exact ⟨rfl, rfl⟩

theorem resetStep_writers (d : Device) (draw : ResetDraw) : RegisterWriters (.reset draw) d (d.resetStep draw) where
  acc _ := .inr ⟨draw, rfl⟩
  ecc _ := .inr ⟨draw, rfl⟩
  eccCode _ := .inr (.inr ⟨draw, rfl⟩)
  chksum _ := .inr ⟨draw, rfl⟩
  flash h := .inr ⟨draw, rfl, fun hq => h (resetStep_flash draw hq)⟩
  book h := by
    refine ⟨fun hq => ?_, .inr ⟨draw, rfl⟩⟩
    obtain ⟨usage, flags⟩ := resetStep_book draw hq
    exact h.elim (absurd usage) (absurd flags)
  err _ _ _ := .inr ⟨draw, rfl⟩

theorem act_writers (a : Action) (s : State) : ∃ t, act a s = .next t ∧ RegisterWriters a s.dev t.dev := by
  cases a with
  | host acc =>
    obtain ⟨d, h, w⟩ := hostStep_writers acc s
    exact ⟨_, h, w⟩
  | seq => exact ⟨_, rfl, seqMove_writers s.dev.seqStep_move⟩
  | adc x => exact ⟨_, rfl, adcStep_writers s.dev x⟩
  | timer =>
    refine ⟨_, rfl, ?_⟩
    rw [Device.timerStep_eq]
    exact {}
  | uartRx =>
    refine ⟨_, rfl, ?_⟩
    unfold State.uartRxStep
    split
    · exact {}
    · exact receive_writers _ s.dev _
  | uartTx =>
    refine ⟨_, rfl, ?_⟩
    unfold State.uartTxStep
    split <;> exact {}
  | flash ok content => exact ⟨_, rfl, flashStep_writers s.dev ok content⟩
  | book => exact ⟨_, rfl, bookStep_writers s.dev⟩
  | reset draw => exact ⟨_, rfl, resetStep_writers s.dev draw⟩
  | usbHost level => exact ⟨_, rfl, { pin := fun _ => ⟨level, rfl⟩ }⟩

/-- Settles O51: for each agent's step, the registers it writes. -/
theorem registersChangeOnlyByTheirAgent : Obligations.RegistersChangeOnlyByTheirAgent := by
  intro a s
  obtain ⟨t, h, w⟩ := act_writers a s
  exact ⟨t, h, w.params, w.acc, w.ecc, w.eccCode, w.chksum, w.flash, w.book, w.pin, w.err⟩

end Sys2Proof.Machine
end

section
/-! ### The reset states (10_state.md R60) -/

namespace Sys2Proof.Machine

theorem Device.MemInv.fresh (p : Params) : (Device.fresh p).MemInv := ⟨rfl, rfl, rfl⟩

theorem Device.CodedProgram.fresh (p : Params) : (Device.fresh p).CodedProgram := nofun

theorem Device.SumInv.fresh (p : Params) : (Device.fresh p).SumInv where
  loop := nofun
  register := by simp [Device.fresh]

/-- A property of a device after reset holds of both reset states. -/
theorem reset_each {P : Device → Prop} (h : P (Device.fresh Params.default)) :
    State.reset.each P ∧ State.resetTwinned.each P := by
  refine ⟨⟨h, by simp [State.reset]⟩, h, fun t ht => ?_⟩
  obtain rfl := Option.some.inj ht
  exact h

/-- Settles O60: each invariant holds of a device after reset. -/
theorem resetMeetsTheInvariants : Obligations.ResetMeetsTheInvariants := by
  obtain ⟨mem, mem'⟩ := reset_each (Device.MemInv.fresh _)
  obtain ⟨stream, stream'⟩ := reset_each (Device.StreamInv.fresh rfl)
  obtain ⟨neg, neg'⟩ := reset_each (Device.NegInv.fresh _)
  obtain ⟨seq, seq'⟩ := reset_each (Device.SeqInv.fresh _)
  obtain ⟨coded, coded'⟩ := reset_each (Device.CodedProgram.fresh _)
  obtain ⟨sum, sum'⟩ := reset_each (Device.SumInv.fresh _)
  exact ⟨⟨mem, stream, neg, seq, coded, sum⟩, mem', stream', neg', seq', coded', sum'⟩

end Sys2Proof.Machine
end

section
/-! ### One step moves each device by one move (00_scope.md R8, R9) -/

namespace Sys2Proof.Machine

theorem State.swapSides_of_twin {s : State} {t : Device} (h : s.twin = some t) :
    s.swapSides = { s with dev := t, twin := some s.dev, lineOut := s.lineIn, lineIn := s.lineOut } := by
  unfold State.swapSides
  rw [h]

theorem State.nextEvent_devices (s : State) : s.nextEvent.2.dev = s.dev ∧ s.nextEvent.2.twin = s.twin := by
  unfold State.nextEvent
  split <;> exact ⟨rfl, rfl⟩

/-- Without a twin its agents do nothing (00_scope.md R8). -/
theorem perform_twin_of_none {s : State} (a : Action) (h : s.twin = none) : perform ⟨.twin, a⟩ s = .next s := by
  simp only [perform, h]

theorem perform_twin_of_some {s : State} {t : Device} (a : Action) (h : s.twin = some t) :
    perform ⟨.twin, a⟩ s = mapNext State.swapSides (act a s.swapSides) := by
  simp only [perform, h]

/-- An event answers a next state; each device has made a move, and the twin stays. -/
theorem perform_move (e : Event) (s : State) :
    ∃ t, perform e s = .next t ∧ DeviceMove s.dev t.dev ∧
      ∀ d, s.twin = some d → ∃ d', t.twin = some d' ∧ DeviceMove d d' := by
  obtain ⟨side, action⟩ := e
  cases side with
  | self =>
    obtain ⟨t, h, m, twin, _⟩ := act_move action s
    exact ⟨t, h, m, fun d hd => ⟨d, twin.trans hd, .same⟩⟩
  | twin =>
    cases hd : s.twin with
    | none => exact ⟨s, perform_twin_of_none action hd, .same, fun _ h => absurd h (Option.some_ne_none _).symm⟩
    | some d =>
      obtain ⟨t, h, m, twin, _⟩ := act_move action s.swapSides
      rw [State.swapSides_of_twin hd] at m twin
      refine ⟨t.swapSides, by rw [perform_twin_of_some action hd, h]; rfl, ?_, ?_⟩
      · rw [State.swapSides_of_twin twin]
        exact .same
      · rintro _ ⟨⟩
        rw [State.swapSides_of_twin twin]
        exact ⟨t.dev, rfl, m⟩

theorem step_move (s : State) :
    ∃ t, step s = .next t ∧ DeviceMove s.dev t.dev ∧
      ∀ d, s.twin = some d → ∃ d', t.twin = some d' ∧ DeviceMove d d' := by
  obtain ⟨dev, twin⟩ := s.nextEvent_devices
  rw [← dev, ← twin]
  exact perform_move s.nextEvent.1 s.nextEvent.2

/-! ### What a move does to the flash and the bookkeeping (20_memory.md R92, R96) -/

/-- The collaborators' state of `d'` is that of `d`. -/
structure Device.SameStores (d d' : Device) : Prop where
  flash : d'.flash = d.flash := by rfl
  usage : d'.usage = d.usage := by rfl
  flags : d'.flags = d.flags := by rfl

theorem Device.Keeps.sameStores {d d' : Device} (k : d.Keeps d') : d.SameStores d' := by
  rw [k.eq_edit]
  exact {}

theorem SeqMove.sameStores {d d' : Device} (m : SeqMove d d') : d.SameStores d' := by
  cases m with
  | election p hp m => cases m <;> exact {}
  | keeps hp k => exact k.sameStores
  | stream hp hs k => exact ⟨k.sameStores.flash, k.sameStores.usage, k.sameStores.flags⟩
  | sum c ok hp k => exact ⟨k.sameStores.flash, k.sameStores.usage, k.sameStores.flags⟩

/-- Only a FLASH, a BOOK and a RESET step reach the collaborators' state (10_state.md R59). -/
theorem DeviceMove.stores_cases {d d' : Device} (m : DeviceMove d d') :
    d.SameStores d' ∨ (∃ ok content, d' = d.flashStep ok content) ∨ d' = d.bookStep ∨ ∃ draw, d' = d.resetStep draw := by
  cases m with
  | flash ok content => exact .inr (.inl ⟨ok, content, rfl⟩)
  | book => exact .inr (.inr (.inl rfl))
  | reset draw => exact .inr (.inr (.inr ⟨draw, rfl⟩))
  | seq => exact .inl d.seqStep_move.sameStores
  | startStream off len =>
    left; unfold Device.bitsStartEffect
    split <;> exact {}
  | eccVerify r => left; rw [Device.eccVerifyEffect_eq]; exact {}
  | adc x => left; rw [Device.adcStep_eq]; exact {}
  | timer => left; rw [Device.timerStep_eq]; exact {}
  | receive x => left; rw [Device.receive_eq]; exact {}
  | same | error | eccGen | startCycle | swap | negotiate | replicate | checksum | readData | readError | window | eccCode
  | clearErr | transmit | pin => exact .inl {}

/-- The flash of `d'` is that of `d` with at most the block or paragraph of an outstanding erase or program rewritten. -/
inductive FlashEdit (d d' : Device) : Prop where
  | same (h : d'.flash = d.flash)
  | erase (b : Nat) (content : List Byte) (hr : d.flashReq = some (.erase b))
      (h : d'.flash = (d.setFlash (flashKey b 0 0) blockBytes content).flash)
  | program (b pg q : Nat) (bytes content : List Byte) (hr : d.flashReq = some (.program b pg q bytes))
      (h : d'.flash = (d.setFlash (flashKey b pg q) 528 content).flash)

/-- The bookkeeping of `d'` is that of `d`, or an outstanding request has taken effect. -/
inductive BookEdit (d d' : Device) : Prop where
  | same (hu : d'.usage = d.usage) (hf : d'.flags = d.flags)
  | effect (r : BookRequest) (hr : d.bookReq = some r) (hu : d'.usage = (d.bookEffect r).usage)
      (hf : d'.flags = (d.bookEffect r).flags)

theorem Device.flashStep_edit (d : Device) (ok : Bool) (content : List Byte) : FlashEdit d (d.flashStep ok content) := by
  unfold Device.flashStep
  split
  · exact .same rfl
  · next b hr => exact .erase b _ hr rfl
  · next b pg q bytes hr => exact .program b pg q bytes _ hr rfl
  · exact .same rfl

theorem Device.dropFlash_edit (d : Device) (content : List Byte) : FlashEdit d (d.dropFlash content) := by
  rcases d.dropFlash_cases content with ⟨b, hr, h⟩ | ⟨b, pg, q, bytes, hr, h⟩ | ⟨_, h⟩
  · exact .erase b content hr (congrArg Device.flash h)
  · exact .program b pg q bytes content hr (congrArg Device.flash h)
  · exact .same (congrArg Device.flash h)

theorem Device.bookStep_edit (d : Device) : BookEdit d d.bookStep := by
  unfold Device.bookStep
  split
  · exact .same rfl rfl
  · next r hr => exact .effect r hr rfl rfl

theorem Device.dropBook_edit (d : Device) (took : Bool) : BookEdit d (d.dropBook took) := by
  unfold Device.dropBook
  split
  · next r hr =>
    split
    · exact .effect r hr rfl rfl
    · exact .same rfl rfl
  · exact .same rfl rfl

/-- A RESET leaves of each port's request what dropping it leaves (70_reset_and_hazards.md R371). -/
theorem Device.resetStep_stores (d : Device) (draw : ResetDraw) :
    (d.resetStep draw).flash = (d.dropFlash draw.flashContent).flash ∧
    (d.resetStep draw).usage = (d.dropBook draw.bookTookEffect).usage ∧
    (d.resetStep draw).flags = (d.dropBook draw.bookTookEffect).flags := by
  unfold Device.resetStep
  dsimp only
  rw [Device.dropFlash_eq]
  unfold Device.dropBook
  dsimp only
  cases d.bookReq with
  | none => exact ⟨rfl, rfl, rfl⟩
  | some r =>
    dsimp only
    split
    · cases r <;> exact ⟨rfl, rfl, rfl⟩
    · exact ⟨rfl, rfl, rfl⟩

theorem FlashEdit.of_flash {d d' e : Device} (m : FlashEdit d d') (h : e.flash = d'.flash) : FlashEdit d e := by
  cases m with
  | same h' => exact .same (h.trans h')
  | erase b content hr h' => exact .erase b content hr (h.trans h')
  | program b pg q bytes content hr h' => exact .program b pg q bytes content hr (h.trans h')

theorem BookEdit.of_book {d d' e : Device} (m : BookEdit d d') (hu : e.usage = d'.usage) (hf : e.flags = d'.flags) :
    BookEdit d e := by
  cases m with
  | same hu' hf' => exact .same (hu.trans hu') (hf.trans hf')
  | effect r hr hu' hf' => exact .effect r hr (hu.trans hu') (hf.trans hf')

theorem DeviceMove.flashEdit {d d' : Device} (m : DeviceMove d d') : FlashEdit d d' := by
  rcases m.stores_cases with same | ⟨ok, content, rfl⟩ | rfl | ⟨draw, rfl⟩
  · exact .same same.flash
  · exact d.flashStep_edit ok content
  · exact .same (by rw [Device.bookStep_eq])
  · obtain ⟨flash, _⟩ := d.resetStep_stores draw
    exact (d.dropFlash_edit _).of_flash flash

theorem DeviceMove.bookEdit {d d' : Device} (m : DeviceMove d d') : BookEdit d d' := by
  rcases m.stores_cases with same | ⟨ok, content, rfl⟩ | rfl | ⟨draw, rfl⟩
  · exact .same same.usage same.flags
  · exact .same (by rw [Device.flashStep_eq]) (by rw [Device.flashStep_eq])
  · exact d.bookStep_edit
  · obtain ⟨_, usage, flags⟩ := d.resetStep_stores draw
    exact (d.dropBook_edit _).of_book usage flags

end Sys2Proof.Machine
end

section
/-! ### The buffers keep the canonical form (20_memory.md R80) -/

namespace Sys2Proof.Machine

namespace Device

/-! #### What of the sequencer leaves the buffers alone -/

theorem recv_buf {d d1 : Device} {x : Byte} (h : d.recv = some (x, d1)) : d1.buf = d.buf := by
  obtain ⟨rest, _, rfl⟩ := Device.recv_some h
  rfl

@[simp] theorem enterBlock_buf (d : Device) (tw : Bool) (b : Nat) : (d.enterBlock tw b).buf = d.buf := by
  unfold Device.enterBlock
  split <;> rfl

@[simp] theorem auditJudge_buf (d : Device) (tw : Bool) (b : Nat) (ownSum remote : Option Word) :
    (d.auditJudge tw b ownSum remote).buf = d.buf := by
  unfold Device.auditJudge
  split
  · exact d.enterBlock_buf tw _
  · rfl

@[simp] theorem auditLocal_buf (d : Device) (tw : Bool) (b : Nat) (bad : Bool) (remote : Option Word) :
    (d.auditLocal tw b bad remote).buf = d.buf := by
  unfold Device.auditLocal
  split
  · exact d.auditJudge_buf tw b _ _
  · rfl

@[simp] theorem auditStart_buf (d : Device) (tw : Bool) (b : Nat) (bad : Bool) :
    (d.auditStart tw b bad).buf = d.buf := by
  unfold Device.auditStart
  split
  · rfl
  · split
    · rfl
    · exact d.enterBlock_buf tw _

@[simp] theorem afterPara_buf (d : Device) (tw : Bool) (b pg q : Nat) (bad : Bool) :
    (d.afterPara tw b pg q bad).buf = d.buf := by
  unfold Device.afterPara
  split
  · rfl
  · exact d.auditStart_buf tw b bad

@[simp] theorem afterProgram_buf (d : Device) (tw : Bool) (b pg q : Nat) (bad : Bool) :
    (d.afterProgram tw b pg q bad).buf = d.buf := by
  unfold Device.afterProgram
  split
  · rfl
  · exact d.afterPara_buf tw b pg q bad

@[simp] theorem sendPara_buf (d : Device) (tw : Bool) (b pg q : Nat) : (d.sendPara tw b pg q).buf = d.buf := by
  unfold Device.sendPara
  split <;> rfl

theorem expect_buf (d : Device) (t : Byte) {k : Device → Device} (hk : ∀ d1, (k d1).buf = d1.buf) :
    (d.expect t k).buf = d.buf := by
  unfold Device.expect
  split
  · rfl
  · next h =>
    rw [← recv_buf h]
    split
    · exact hk _
    · rfl

@[simp] theorem auditToken_buf (d : Device) (tw : Bool) (b : Nat) (bad : Bool) (x : Byte) :
    (d.auditToken tw b bad x).buf = d.buf := by
  unfold Device.auditToken
  split
  · rfl
  · split
    · exact d.auditLocal_buf tw b bad _
    · rfl

@[simp] theorem auditSumByte_buf (d : Device) (tw : Bool) (b : Nat) (bad : Bool) (got : List Byte) (x : Byte) :
    (d.auditSumByte tw b bad got x).buf = d.buf := by
  unfold Device.auditSumByte
  split
  · exact d.auditLocal_buf tw b bad _
  · rfl

@[simp] theorem slaveStart_buf (d : Device) : d.slaveStart.buf = d.buf := by
  unfold Device.slaveStart
  split
  · split
    · next h =>
      rw [← recv_buf h]
      unfold Device.firstByte
      split
      · rfl
      · split <;> rfl
    · rfl
  · rfl

/-! #### What writes the buffers -/

/-- The buffers are in canonical form. -/
def BufWf (d : Device) : Prop := Memory.wf .buffers d.buf = true

variable {d d' : Device}

theorem BufWf.of_buf (h : d.BufWf) (hb : d'.buf = d.buf) : d'.BufWf := by
  rwa [BufWf, hb]

theorem BufWf.setBufByte (h : d.BufWf) (p : Bool) (i : Nat) (v : Byte) : (d.setBufByte p i v).BufWf :=
  Memory.wf_write _ _ _ _ h

theorem BufWf.setBufBytes (h : d.BufWf) (p : Bool) (i : Nat) (bytes : List Byte) : (d.setBufBytes p i bytes).BufWf :=
  Memory.wf_writeBytes _ _ _ _ h

theorem BufWf.writeSpare (h : d.BufWf) : d.writeSpare.BufWf := h.setBufBytes _ _ _

theorem BufWf.correctBuf (h : d.BufWf) (p : Bool) (syn : BitVec 25) : (d.correctBuf p syn).BufWf := by
  rcases d.correctBuf_cases p syn with ⟨_, e⟩ | ⟨_, _, e⟩ <;> rw [e]
  · exact h
  · exact h.setBufByte _ _ _

theorem BufWf.cycleEnd (h : d.BufWf) : d.cycleEnd.BufWf := by
  unfold Device.cycleEnd
  split
  · have delivered := h.setBufBytes (!d.sel) d.soff ((accBytes d).take (min 16 d.srem))
    dsimp only
    split <;> exact delivered
  · exact h

theorem BufWf.adcStep (h : d.BufWf) (x : Half) : (d.adcStep x).BufWf := by
  unfold Device.adcStep
  split
  · dsimp only
    split
    · exact BufWf.cycleEnd h
    · exact h
  · exact h

theorem BufWf.checksumTurn (h : d.BufWf) (c : ChecksumLoop) (r : FlashResult) : (d.checksumTurn c r).1.BufWf := by
  have load := h.setBufBytes d.sel 0 (r.bytes.take 528)
  unfold Device.checksumTurn
  split
  · dsimp only
    split
    · exact load
    · split <;> exact load.correctBuf _ _
  · exact h

theorem BufWf.paraReady (h : d.BufWf) (tw : Bool) (b pg q : Nat) (bad : Bool) : (d.paraReady tw b pg q bad).BufWf := by
  have spare : (d.swapBuffers.startStream 0 512).writeSpare.BufWf := BufWf.writeSpare h
  have ready := spare.of_buf (sendPara_buf _ tw b pg q)
  unfold Device.paraReady
  dsimp only
  split
  · exact ready.of_buf (afterProgram_buf _ tw b pg q bad)
  · exact ready

theorem BufWf.auditTurn (h : d.BufWf) (tw : Bool) (remote : Option Word) (c : ChecksumLoop) (r : FlashResult) :
    (d.auditTurn tw remote c r).BufWf := by
  have turn := h.checksumTurn c r
  unfold Device.auditTurn
  rcases ht : d.checksumTurn c r with ⟨d1, c1 | ⟨ok, sum⟩⟩ <;> rw [ht] at turn
  · exact turn
  · exact turn.of_buf (auditJudge_buf _ tw _ _ _)

/-- In a run only a paragraph and the audit's own checksum write the buffers (43_twin_replication.md R265, R270). -/
theorem BufWf.replicateStep (h : d.BufWf) (tw : Bool) (p : RunPoint) : (d.replicateStep tw p).BufWf := by
  cases p with
  | fill b pg q bad =>
    simp only [Device.replicateStep]
    split
    · exact h
    · exact h.paraReady tw b pg q bad
  | auditRead remote c =>
    simp only [Device.replicateStep]
    split
    · exact BufWf.auditTurn (d := d.takeFlash) h tw remote c _
    · exact h
  | skipAck b | markAck b => exact h.of_buf (d.expect_buf _ fun _ => enterBlock_buf _ tw _)
  | dataAck b pg q bad => exact h.of_buf (d.expect_buf _ fun _ => afterPara_buf _ tw b pg q bad)
  | auditReply b bad | auditSum b bad got =>
    simp only [Device.replicateStep]
    split
    · next hr => exact h.of_buf (by simp [recv_buf hr])
    · exact h
  | status b =>
    simp only [Device.replicateStep]
    split
    · split
      · exact h
      · exact h.of_buf (by simp)
    · exact h
    · exact h
  | checkFinished | checkStarted | setStarted | firstStream | erasing b | programming b pg q | auditMark b | localMark b
  | finishing =>
    simp only [Device.replicateStep]
    split <;> exact h.of_buf (by simp [Device.runBook, Device.runTo, Device.runStarted, Device.sendMark, Device.endRun])

theorem BufWf.checksumStep (h : d.BufWf) (c : ChecksumLoop) : (d.checksumStep c).BufWf := by
  unfold Device.checksumStep
  split
  · exact h
  · next r _ =>
    have turn := BufWf.checksumTurn (d := d.takeFlash) h c r
    rcases ht : d.takeFlash.checksumTurn c r with ⟨d1, c1 | ⟨ok, sum⟩⟩ <;> rw [ht] at turn <;> exact turn

theorem BufWf.frameComplete (h : d.BufWf) (f : SlaveFrame) : (d.frameComplete f).BufWf := by
  unfold Device.frameComplete
  split
  · unfold Device.beginData
    split
    · split
      · exact h
      · exact h.writeSpare
    · exact h
  · split
    · unfold Device.reqChecksum
      split <;> exact h
    · unfold Device.markBlock
      split <;> exact h

theorem BufWf.payloadByte (h : d.BufWf) (f : SlaveFrame) (x : Byte) : (d.payloadByte f x).BufWf := by
  have stored : (d.storePayload f x).BufWf := by
    unfold Device.storePayload
    split
    · exact h.setBufByte _ _ _
    · exact h
  unfold Device.payloadByte
  dsimp only
  split
  · exact stored.frameComplete _
  · exact stored

/-- A slave frame writes the buffers with its data bytes, its spare and its checksum (43_twin_replication.md R279,
R280). -/
theorem BufWf.slaveStep (h : d.BufWf) (f : SlaveFrame) : (d.slaveStep f).BufWf := by
  obtain ⟨token, payload, point⟩ := f
  cases point with
  | payload =>
    simp only [Device.slaveStep]
    split
    · next hr => exact (h.of_buf (recv_buf hr)).payloadByte _ _
    · exact h
  | erasing =>
    simp only [Device.slaveStep]
    split
    · exact BufWf.writeSpare (d := d.takeFlash) h
    · exact h
  | checksum c =>
    simp only [Device.slaveStep]
    split
    · exact h
    · next r _ =>
      have turn := BufWf.checksumTurn (d := d.takeFlash) h c r
      rcases ht : d.takeFlash.checksumTurn c r with ⟨d1, c1 | ⟨ok, sum⟩⟩ <;> rw [ht] at turn <;> exact turn
  | checkStarted | setStarted | programming | marking =>
    simp only [Device.slaveStep]
    split <;> exact h

theorem BufWf.seqStep (h : d.BufWf) : d.seqStep.BufWf := by
  unfold Device.seqStep
  split
  · exact h.of_buf d.slaveStart_buf
  · next p _ =>
    have m := d.negotiateStep_move p
    generalize d.negotiateStep p = d' at m ⊢
    cases m <;> exact h
  · exact h.replicateStep _ _
  · exact h.checksumStep _
  · exact h.slaveStep _

theorem BufWf.move (m : DeviceMove d d') (h : d.BufWf) : d'.BufWf := by
  cases m with
  | eccVerify r => exact h.correctBuf _ _
  | window p i v => exact h.setBufByte p i v
  | seq => exact h.seqStep
  | adc x => exact h.adcStep x
  | reset draw => exact Memory.wf_writeBytes .buffers _ _ _ rfl
  | startStream off len =>
    unfold Device.bitsStartEffect
    split <;> exact h
  | timer => rw [Device.timerStep_eq]; exact h
  | receive x => rw [Device.receive_eq]; exact h
  | flash ok content => rw [Device.flashStep_eq]; exact h
  | book => rw [Device.bookStep_eq]; exact h
  | same | error | eccGen | startCycle | swap | negotiate | replicate | checksum | readData | readError | eccCode
  | clearErr | transmit | pin => exact h

end Device

theorem Device.setFlash_wf {d : Device} (h : Memory.wf .flash d.flash = true) (base n : Nat) (content : List Byte) :
    Memory.wf .flash (d.setFlash base n content).flash = true :=
  Memory.wf_writeBytes _ _ _ _ (Memory.wf_clearBytes _ _ _ _ h)

theorem FlashEdit.wf {d d' : Device} (m : FlashEdit d d') (h : Memory.wf .flash d.flash = true) :
    Memory.wf .flash d'.flash = true := by
  cases m with
  | same e => rwa [e]
  | erase b content _ e => rw [e]; exact Device.setFlash_wf h _ _ _
  | program b pg q bytes content _ e => rw [e]; exact Device.setFlash_wf h _ _ _

theorem BookEdit.wf {d d' : Device} (m : BookEdit d d') (h : Sparse.wf unlistedStatus d.usage = true) :
    Sparse.wf unlistedStatus d'.usage = true := by
  cases m with
  | same e _ => rwa [e]
  | effect r _ e _ =>
    rw [e]
    cases r with
    | markBad b => exact Sparse.wf_write unlistedStatus d.usage b .bad h
    | blockStatus | flagIsSet | setFlag => exact h

theorem Device.MemInv.move {d d' : Device} (m : DeviceMove d d') (h : d.MemInv) : d'.MemInv where
  buf := Device.BufWf.move m h.buf
  flash := m.flashEdit.wf h.flash
  usage := m.bookEdit.wf h.usage

/-- Settles O53: every move of a device keeps its three lists in canonical form. -/
theorem stepKeepsTheMemories : Obligations.StepKeepsTheMemories :=
  fun s t hs h => step_keeps_each (fun _ _ => Device.MemInv.move) s t h hs

end Sys2Proof.Machine
end

section
/-! ### Block 0 of the flash (20_memory.md R81, R82, R92) -/

namespace Sys2Proof.Machine

/-- Blocks follow one another in the flash, each of `blockBytes` bytes (20_memory.md R81). -/
theorem flashKey_block (b : Nat) : flashKey b 0 0 = b * blockBytes := by
  unfold flashKey paragraphAddress blockBytes
  omega

theorem flashKey_next_block (b : Nat) : flashKey (b + 1) 0 0 = flashKey b 0 0 + blockBytes := by
  rw [flashKey_block, flashKey_block, Nat.succ_mul]

theorem blockBytes_le_flashKey {b : Nat} (hb : 1 ≤ b) (pg q : Nat) : blockBytes ≤ flashKey b pg q := by
  unfold flashKey paragraphAddress blockBytes
  omega

theorem Device.read_setFlash_inside (d : Device) (base : Nat) {n i : Nat} (content : List Byte) (hi : i < n) :
    Memory.read .flash (d.setFlash base n content).flash (base + i) = content.getD i 0xFF := by
  rw [Device.read_setFlash, if_pos (by omega), Nat.add_sub_cancel_left]

theorem Device.read_setFlash_outside (d : Device) {base n a : Nat} (content : List Byte)
    (ha : ¬ (base ≤ a ∧ a < base + n)) :
    Memory.read .flash (d.setFlash base n content).flash a = Memory.read .flash d.flash a := by
  rw [Device.read_setFlash, if_neg ha]

/-- New content from block 1 up leaves block 0. -/
theorem Device.read_setFlash_block_zero (d : Device) {base a : Nat} (n : Nat) (content : List Byte)
    (hb : blockBytes ≤ base) (ha : a < blockBytes) :
    Memory.read .flash (d.setFlash base n content).flash a = Memory.read .flash d.flash a :=
  d.read_setFlash_outside content (by omega)

/-- A request the sequencer issues names a block above 0, so what becomes of it leaves block 0 (20_memory.md R82). -/
theorem FlashEdit.block_zero {d d' : Device} (m : FlashEdit d d') (h : d.SeqInv) {a : Nat} (ha : a < blockBytes) :
    Memory.read .flash d'.flash a = Memory.read .flash d.flash a := by
  cases m with
  | same e => rw [e]
  | erase b content hr e =>
    obtain ⟨_, inBlocks, _⟩ := h.flashReq _ hr
    obtain ⟨above, _⟩ := paraIn_block inBlocks
    rw [e, Device.read_setFlash_block_zero _ _ _ (blockBytes_le_flashKey above 0 0) ha]
  | program b pg q bytes content hr e =>
    obtain ⟨_, inBlocks, _⟩ := h.flashReq _ hr
    simp only [FlashRequest.inBlocks, Bool.and_eq_true] at inBlocks
    obtain ⟨above, _⟩ := paraIn_block inBlocks.left
    rw [e, Device.read_setFlash_block_zero _ _ _ (blockBytes_le_flashKey above pg q) ha]

/-- Settles O59: each device makes one move, and a move reaches no byte of block 0. -/
theorem blockZeroIsNeverTouched : Obligations.BlockZeroIsNeverTouched := by
  intro s t inv h
  obtain ⟨t', h', m, twin⟩ := step_move s
  obtain rfl : t' = t := Host.Outcome.next.inj (h'.symm.trans h)
  obtain ⟨devInv, twinInv⟩ := inv
  refine ⟨fun a ha => m.flashEdit.block_zero devInv ha, fun d hd => ?_⟩
  obtain ⟨d', hd', m'⟩ := twin d hd
  exact ⟨d', hd', fun a ha => m'.flashEdit.block_zero (twinInv d hd) ha⟩

end Sys2Proof.Machine
end

section
/-! ### The flash port (20_memory.md R92) -/

namespace Sys2Proof.Machine

/-! #### The FLASH step by its request -/

theorem Device.flashStep_of_none {d : Device} (ok : Bool) (content : List Byte) (h : d.flashReq = none) :
    d.flashStep ok content = d := by
  rw [Device.flashStep, h]

theorem Device.flashStep_of_erase {d : Device} (ok : Bool) (content : List Byte) {b : Nat}
    (h : d.flashReq = some (.erase b)) :
    d.flashStep ok content = { d with
      flash := (d.setFlash (flashKey b 0 0) blockBytes (if ok then [] else content)).flash,
      flashReq := none, flashResult := some ⟨ok, []⟩ } := by
  rw [Device.flashStep, h]
  rfl

theorem Device.flashStep_of_program {d : Device} (ok : Bool) (content : List Byte) {b pg q : Nat} {bytes : List Byte}
    (h : d.flashReq = some (.program b pg q bytes)) :
    d.flashStep ok content = { d with
      flash := (d.setFlash (flashKey b pg q) 528
        (if ok then List.zipWith (fun old new => old &&& new) (d.flashPara b pg q) bytes else content)).flash,
      flashReq := none, flashResult := some ⟨ok, []⟩ } := by
  rw [Device.flashStep, h]
  rfl

theorem Device.flashStep_of_read {d : Device} (ok : Bool) (content : List Byte) {b pg q : Nat}
    (h : d.flashReq = some (.read b pg q)) :
    d.flashStep ok content = { d with
      flashReq := none, flashResult := some ⟨ok, if ok then d.flashPara b pg q else content⟩ } := by
  rw [Device.flashStep, h]

/-! #### The bytes a completed request leaves or returns -/

theorem Device.flashPara_length (d : Device) (b pg q : Nat) : (d.flashPara b pg q).length = 528 :=
  Memory.length_readBytes _ _ _ _

theorem Device.getD_flashPara (d : Device) (b pg q : Nat) {i : Nat} (hi : i < 528) (x : Byte) :
    (d.flashPara b pg q).getD i x = Memory.read .flash d.flash (flashKey b pg q + i) :=
  Memory.getD_readBytes _ _ _ _ _ _ hi

/-- A program only clears bits (20_memory.md R92). -/
theorem Device.getD_programmed (d : Device) (b pg q : Nat) {bytes : List Byte} (hl : bytes.length = 528) {i : Nat}
    (hi : i < 528) (x : Byte) :
    (List.zipWith (fun old new => old &&& new) (d.flashPara b pg q) bytes).getD i x =
      Memory.read .flash d.flash (flashKey b pg q + i) &&& bytes.getD i 0 := by
  have old : i < (d.flashPara b pg q).length := hi.trans_eq (d.flashPara_length b pg q).symm
  have new : i < bytes.length := hi.trans_eq hl.symm
  rw [← d.getD_flashPara b pg q hi 0]
  simp [List.getD_eq_getElem?_getD, old, new]

/-- Settles O45: the FLASH step request by request. -/
theorem flashCompletesItsRequest : Obligations.FlashCompletesItsRequest := by
  intro s ok content
  have acts (d' : Device) (h : s.dev.flashStep ok content = d') : act (.flash ok content) s = .next (s.withDev d') :=
    h ▸ rfl
  refine ⟨fun hr => ?_, fun b hr => ?_, fun b pg q bytes hr hl => ?_, fun b pg q hr => ?_⟩
  · exact acts _ (Device.flashStep_of_none ok content hr)
  · refine ⟨_, acts _ (Device.flashStep_of_erase ok content hr), rfl, ?_, fun a ha => ?_⟩
    · rintro rfl i hi
      exact s.dev.read_setFlash_inside _ _ hi
    · rw [flashKey_next_block] at ha
      exact s.dev.read_setFlash_outside _ ha
  · refine ⟨_, acts _ (Device.flashStep_of_program ok content hr), rfl, ?_, fun a ha => ?_⟩
    · rintro rfl i hi
      dsimp only [State.withDev_dev]
      rw [Device.read_setFlash_inside _ _ _ hi, if_pos rfl, Device.getD_programmed _ _ _ _ hl hi]
    · exact s.dev.read_setFlash_outside _ ha
  · refine ⟨_, acts _ (Device.flashStep_of_read ok content hr), ?_⟩
    rintro rfl
    exact ⟨s.dev.flashPara_length b pg q, fun i hi => s.dev.getD_flashPara b pg q hi 0⟩

end Sys2Proof.Machine
end

section
/-! ### The bookkeeping port (20_memory.md R96) -/

namespace Sys2Proof.Machine

theorem Flags.get_set (fs : Flags) (f g : Flag) : (fs.set f).get g = if g = f then true else fs.get g := by
  cases f <;> cases g <;> rfl

theorem Device.bookStep_of_some {d : Device} {r : BookRequest} (h : d.bookReq = some r) :
    d.bookStep = { d with
      usage := (d.bookEffect r).usage, flags := (d.bookEffect r).flags, bookReq := none,
      bookResult := some (d.bookAnswer r) } := by
  rw [Device.bookStep, h]
  cases r <;> rfl

/-- The effect of a request on a block status: MarkBad makes its block Bad (20_memory.md R96). -/
theorem Device.blockStatus_bookEffect (d : Device) (r : BookRequest) (b : Nat) :
    (d.bookEffect r).blockStatus b = if r = .markBad b then .bad else d.blockStatus b := by
  cases r with
  | markBad c => simp [Device.bookEffect, Device.blockStatus_setBlockStatus, eq_comm]
  | blockStatus | flagIsSet | setFlag => rfl

/-- The effect of a request on a flag: SetFlag sets its flag (20_memory.md R96). -/
theorem Device.flag_bookEffect (d : Device) (r : BookRequest) (f : Flag) :
    (d.bookEffect r).flags.get f = if r = .setFlag f then true else d.flags.get f := by
  cases r with
  | setFlag g => simp [Device.bookEffect, Flags.get_set, eq_comm]
  | blockStatus | markBad | flagIsSet => rfl

/-- In `d'` every block Bad in `d` is Bad and every flag set in `d` is set. -/
structure Device.BookForward (d d' : Device) : Prop where
  bad : ∀ b, d.blockStatus b = .bad → d'.blockStatus b = .bad
  set : ∀ f, d.flags.get f = true → d'.flags.get f = true

/-- The bookkeeping only goes forward (20_memory.md R96). -/
theorem BookEdit.forward {d d' : Device} (m : BookEdit d d') : d.BookForward d' := by
  cases m with
  | same hu hf => exact ⟨fun b h => by rwa [Device.blockStatus, hu], fun f h => by rwa [hf]⟩
  | effect r _ hu hf =>
    refine ⟨fun b h => ?_, fun f h => ?_⟩
    · have read : d'.blockStatus b = (d.bookEffect r).blockStatus b := by rw [Device.blockStatus, hu]; rfl
      rw [read, Device.blockStatus_bookEffect, h, ite_self]
    · rw [hf, Device.flag_bookEffect, h, ite_self]

/-- Settles O46: the BOOK step request by request, and that no move of a device goes back. -/
theorem bookkeepingOnlyGoesForward : Obligations.BookkeepingOnlyGoesForward := by
  refine ⟨fun s r hr => ?_, fun s => ?_⟩
  · have acts : act .book s = .next (s.withDev _) :=
      congrArg (Host.Outcome.next <| s.withDev ·) (Device.bookStep_of_some hr)
    refine ⟨_, acts, rfl, ?_, ?_, ?_, ?_⟩
    · rintro b rfl
      exact ⟨rfl, rfl, rfl⟩
    · rintro b rfl
      exact ⟨rfl, rfl, fun c => s.dev.blockStatus_setBlockStatus b c .bad⟩
    · rintro f rfl
      exact ⟨rfl, rfl, rfl⟩
    · rintro f rfl
      exact ⟨rfl, rfl, s.dev.flags.get_set f⟩
  · obtain ⟨t, h, m, twin⟩ := step_move s
    have dev := m.bookEdit.forward
    refine ⟨t, h, dev.bad, dev.set, fun d hd => ?_⟩
    obtain ⟨d', hd', m'⟩ := twin d hd
    have other := m'.bookEdit.forward
    exact ⟨d', hd', other.bad, other.set⟩

end Sys2Proof.Machine
end

section
/-! ### The serial link (20_memory.md R89 to R91) -/

namespace Sys2Proof.Machine

theorem Device.receive_of_room {d : Device} (x : Byte) (h : d.rxq.length < d.params.rxFifoDepth) :
    d.receive x = { d with rxq := d.rxq ++ [x] } := by
  rw [Device.receive, if_pos h]

theorem Device.receive_of_full {d : Device} (x : Byte) (h : ¬ d.rxq.length < d.params.rxFifoDepth) :
    d.receive x = { d with err := d.err ||| 0x200 } := by
  rw [Device.receive, if_neg h]
  rfl

theorem State.uartRxStep_of_nil {s : State} (h : s.lineIn = []) : s.uartRxStep = s := by
  rw [State.uartRxStep, h]

theorem State.uartRxStep_of_cons {s : State} {x : Byte} {rest : List Byte} (h : s.lineIn = x :: rest) :
    s.uartRxStep = { s with dev := s.dev.receive x, lineIn := rest } := by
  rw [State.uartRxStep, h]

theorem State.uartTxStep_of_nil {s : State} (h : s.dev.txq = []) : s.uartTxStep = s := by
  rw [State.uartTxStep, h]

theorem State.uartTxStep_of_cons {s : State} {e : TxEntry} {rest : List TxEntry} (h : s.dev.txq = e :: rest) :
    s.uartTxStep = { s with
      dev := { s.dev with txq := rest }
      lineOut := if s.twin = none then s.lineOut else s.lineOut ++ [s.dev.txByte e] } := by
  rw [State.uartTxStep, h]
  cases s.twin <;> rfl

/-- Settles O47: the two agents of the link, each by what waits for it. -/
theorem linkCarriesBytesInOrder : Obligations.LinkCarriesBytesInOrder := by
  refine fun s => ⟨fun x rest h => ?_, fun h => ?_, fun h => ?_, fun e rest h => ?_, fun d x rest hd h room => ?_⟩
  · rw [act, State.uartRxStep_of_cons h]
    split
    · next room => rw [Device.receive_of_room x room]
    · next full => rw [Device.receive_of_full x full]
  · rw [act, State.uartRxStep_of_nil h]
  · rw [act, State.uartTxStep_of_nil h]
  · rw [act, State.uartTxStep_of_cons h]
    cases e <;> rfl
  · rw [perform_twin_of_some _ hd, State.swapSides_of_twin hd, act, State.uartRxStep_of_cons h,
      Device.receive_of_room x room]
    rfl

end Sys2Proof.Machine
end

section
/-! ### The command word (30_encoding.md R121 to R129) -/

namespace Sys2Proof.Machine

/-! #### The fields of an encoded word -/

theorem opOf_encode (i : Instr) : opOf (encode i) = opcode i :=
  BitVec.extractLsb'_append_eq_left

theorem extractLsb'_encode (i : Instr) {k n : Nat} (h : k + n ≤ 24) :
    (encode i).extractLsb' k n = (argument i).extractLsb' k n :=
  BitVec.extractLsb'_append_eq_of_add_le h

theorem encode_eq_or (i : Instr) :
    encode i = ((opcode i).setWidth 32 <<< 24) ||| (argument i).setWidth 32 := by
  rw [encode, ← BitVec.setWidth_append_eq_shiftLeft_setWidth_or, BitVec.setWidth_eq]

/-- A word is the code of the instruction whose opcode and argument it holds. -/
theorem encode_eq_word {w : Word} {i : Instr} (hop : opOf w = opcode i) (harg : argument i = w.extractLsb' 0 24) :
    encode i = w := by
  rw [encode, ← hop, harg]
  exact BitVec.extractLsb'_append_extractLsb'

theorem opAssigned_opcode (i : Instr) : opAssigned (opcode i) = true := by
  cases i <;> rfl

theorem reserved_stream (off len : BitVec 10) : (argument (.rngBitsStart off len)).extractLsb' 20 4 = 0 := by
  rw [argument, BitVec.append_assoc]
  exact BitVec.extractLsb'_append_eq_left

theorem off_encode (off len : BitVec 10) : (encode (.rngBitsStart off len)).extractLsb' 10 10 = off := by
  rw [extractLsb'_encode _ (by decide), argument, BitVec.extractLsb'_append_eq_of_le (le_refl 10)]
  exact BitVec.extractLsb'_append_eq_right

theorem len_encode (off len : BitVec 10) : (encode (.rngBitsStart off len)).extractLsb' 0 10 = len := by
  rw [extractLsb'_encode _ (by decide)]
  exact BitVec.extractLsb'_append_eq_right

theorem argument_blockChecksum (b : Half) : argument (.blockChecksum b) = (0 : BitVec 8) ++ b :=
  BitVec.setWidth_eq_append (by decide)

theorem reserved_block (b : Half) : (argument (.blockChecksum b)).extractLsb' 16 8 = 0 := by
  rw [argument_blockChecksum]
  exact BitVec.extractLsb'_append_eq_left

theorem block_encode (b : Half) : (encode (.blockChecksum b)).extractLsb' 0 16 = b := by
  rw [extractLsb'_encode _ (by decide), argument_blockChecksum]
  exact BitVec.extractLsb'_append_eq_right

/-! #### Decoding an encoded word -/

/-- The reserved bits of an encoded word are clear when those of the argument are (30_encoding.md R125). -/
theorem checkReserved_encode (i j : Instr) (op : Byte) {k n : Nat} (hk : k + n ≤ 24)
    (h : (argument i).extractLsb' k n = 0) : checkReserved op ((encode i).extractLsb' k n) j = .ok j := by
  rw [extractLsb'_encode i hk]
  exact if_pos h

/-- The opcode selects the row; its operands are read from the fields they were put in (30_encoding.md R122). -/
theorem decode_encode (i : Instr) : decode (encode i) = .ok i := by
  simp only [decode, opOf_encode]
  cases i with
  | nop => rfl
  | eccGen r => cases r <;> rfl
  | eccVerify r => cases r <;> rfl
  | rngStart => rfl
  | rngBitsStart off len =>
    rw [off_encode, len_encode]
    exact checkReserved_encode _ _ _ (by decide) (reserved_stream off len)
  | bufSwap => rfl
  | twinNegotiate f => cases f <;> rfl
  | twinReplicate => rfl
  | blockChecksum b =>
    rw [block_encode]
    exact checkReserved_encode _ _ _ (by decide) (reserved_block b)

theorem decodeTableWord_of_decode {w : Word} {i : Instr} (h : decode w = .ok i) :
    decodeTableWord 32 w.toNat = some i := by
  rw [decodeTableWord, if_pos (le_refl 32), Nat.mod_eq_of_lt w.isLt, BitVec.ofNat_toNat, BitVec.setWidth_eq, h]

/-- Settles O2: each operand is read back from the field its encoder put it in. -/
theorem decodeInvertsEncode : Obligations.DecodeInvertsEncode :=
  fun i => ⟨decode_encode i, decodeTableWord_of_decode (decode_encode i)⟩

/-- Settles O1: each word is evaluated, and the one round trip gives what it decodes to. -/
theorem commandWords : Obligations.CommandWords := by
  refine ⟨⟨rfl, decode_encode .nop⟩, ⟨rfl, decode_encode (.eccGen .nand)⟩, ⟨rfl, decode_encode (.eccGen .rng)⟩,
    ⟨rfl, decode_encode (.eccVerify .nand)⟩, ⟨rfl, decode_encode (.eccVerify .rng)⟩, ⟨rfl, decode_encode .rngStart⟩,
    fun off len => ?_, decode_encode (.rngBitsStart 528 16), ⟨rfl, decode_encode .bufSwap⟩,
    ⟨rfl, decode_encode (.twinNegotiate false)⟩, ⟨rfl, decode_encode (.twinNegotiate true)⟩,
    ⟨rfl, decode_encode .twinReplicate⟩, fun b => ?_, decode_encode (.blockChecksum 0xABCD)⟩
  · rw [encode_eq_or, argument, BitVec.setWidth_append_append_eq_shiftLeft_setWidth_or]
    simp [opcode, BitVec.or_assoc]
  · rw [encode_eq_or, argument, BitVec.setWidth_setWidth (by decide)]
    simp [opcode]

/-! #### What a word decodes to -/

/-- The bits of a mask over one field are clear exactly when the field is 0. -/
theorem and_fieldMask_eq_zero {m : Nat} (w : BitVec m) {k n : Nat} (h : k + n ≤ m) :
    w &&& ((BitVec.allOnes n).setWidth m <<< k) = 0 ↔ w.extractLsb' k n = 0 := by
  constructor
  · intro hw
    apply BitVec.eq_of_getLsbD_eq
    intro i hi
    have bit := congrArg (fun v : BitVec m => v.getLsbD (k + i)) hw
    simpa [hi, show k + i < m by omega, show i < m by omega] using bit
  · intro hw
    apply BitVec.eq_of_getLsbD_eq
    intro i hi
    rcases Nat.lt_or_ge i k with hik | hki
    · simp [hik]
    · obtain ⟨j, rfl⟩ := Nat.exists_eq_add_of_le hki
      have bit := congrArg (fun v : BitVec n => v.getLsbD j) hw
      have clear : j < n → w.getLsbD (k + j) = false := by simpa using bit
      rcases Nat.lt_or_ge j n with hj | hj
      · simp [clear hj]
      · simp [hj]

/-- The three outcomes of decoding `w` (30_encoding.md R124, R125, R127). -/
inductive Decodes (w : Word) : Except Reject Instr → Prop where
  | unassigned (h : opAssigned (opOf w) = false) : Decodes w (.error (.illegalOpcode (opOf w)))
  | reserved (hop : opAssigned (opOf w) = true) (h : w &&& reservedMask (opOf w) ≠ 0) :
      Decodes w (.error (.reservedBits (opOf w)))
  | command (i : Instr) (hop : opAssigned (opOf w) = true) (h : w &&& reservedMask (opOf w) = 0)
      (he : encode i = w) : Decodes w (.ok i)

/-- One row of the opcode map, with its reserved field of `n` bits from bit `k` up (30_encoding.md R123, R125). -/
theorem Decodes.of_row {w : Word} {i : Instr} {k n : Nat} (hk : k + n ≤ 32) (hop : (opOf w).toNat = (opcode i).toNat)
    (hm : reservedMask (opcode i) = (BitVec.allOnes n).setWidth 32 <<< k)
    (he : opOf w = opcode i → w.extractLsb' k n = 0 → encode i = w) :
    Decodes w (checkReserved (opOf w) (w.extractLsb' k n) i) := by
  replace hop : opOf w = opcode i := BitVec.eq_of_toNat_eq hop
  have hr : w &&& reservedMask (opOf w) = 0 ↔ w.extractLsb' k n = 0 := by
    rw [hop, hm]
    exact and_fieldMask_eq_zero w hk
  have ha : opAssigned (opOf w) = true := by rw [hop, opAssigned_opcode]
  unfold checkReserved
  split
  · next h => exact .command i ha (hr.mpr h) (he hop h)
  · next h => exact .reserved ha (mt hr.mp h)

/-! For each row: a word with that opcode whose reserved bits are 0 is the code of the operands read from it (R122). -/

theorem encode_plain_eq_word {w : Word} {i : Instr} (ha : argument i = 0) (hop : opOf w = opcode i)
    (hr : w.extractLsb' 0 24 = 0) : encode i = w :=
  encode_eq_word hop (ha.trans hr.symm)

theorem encode_bit_eq_word {w : Word} {i : Instr} (ha : argument i = (BitVec.ofBool (w.getLsbD 0)).setWidth 24)
    (hop : opOf w = opcode i) (hr : w.extractLsb' 1 23 = 0) : encode i = w := by
  rw [encode, ha]
  exact op_append_bit_eq_word hop hr

theorem encode_role_eq_word {w : Word} {i : Role → Instr}
    (ha : ∀ r, argument (i r) = (BitVec.ofBool (bitOfRole r)).setWidth 24)
    (hop : opOf w = opcode (i (roleOfBit (w.getLsbD 0)))) (hr : w.extractLsb' 1 23 = 0) :
    encode (i (roleOfBit (w.getLsbD 0))) = w :=
  encode_bit_eq_word (by rw [ha, bitOfRole_roleOfBit]) hop hr

theorem encode_stream_eq_word {w : Word} (hop : opOf w = 0x11) (hr : w.extractLsb' 20 4 = 0) :
    encode (.rngBitsStart (w.extractLsb' 10 10) (w.extractLsb' 0 10)) = w := by
  refine encode_eq_word hop ?_
  have high : w.extractLsb' 20 4 ++ w.extractLsb' 10 10 = w.extractLsb' 10 14 :=
    BitVec.extractLsb'_append_extractLsb'_eq_extractLsb' rfl
  rw [argument, ← hr, high]
  exact BitVec.extractLsb'_append_extractLsb'_eq_extractLsb' rfl

theorem encode_block_eq_word {w : Word} (hop : opOf w = 0x22) (hr : w.extractLsb' 16 8 = 0) :
    encode (.blockChecksum (w.extractLsb' 0 16)) = w := by
  refine encode_eq_word hop ?_
  rw [argument_blockChecksum, ← hr]
  exact BitVec.extractLsb'_append_extractLsb'_eq_extractLsb' rfl

/-- The opcodes that have no command, by their values (30_encoding.md R127). -/
theorem opAssigned_eq_false_iff (op : Byte) :
    opAssigned op = false ↔
      (0x03 ≤ op.toNat ∧ op.toNat ≤ 0x0F) ∨ (0x13 ≤ op.toNat ∧ op.toNat ≤ 0x1F) ∨ 0x23 ≤ op.toNat := by
  simp [opAssigned, ← BitVec.toNat_inj]
  omega

/-- Everything a word can decode to: the decoder's rows are the rows of the opcode map. -/
theorem decode_decodes (w : Word) : Decodes w (decode w) := by
  unfold decode
  dsimp only
  split
  case h_1 hop => exact .of_row (by decide) hop rfl (encode_plain_eq_word rfl)
  case h_2 hop => exact .of_row (by decide) hop rfl (encode_role_eq_word fun _ => rfl)
  case h_3 hop => exact .of_row (by decide) hop rfl (encode_role_eq_word fun _ => rfl)
  case h_4 hop => exact .of_row (by decide) hop rfl (encode_plain_eq_word rfl)
  case h_5 hop => exact .of_row (by decide) hop rfl encode_stream_eq_word
  case h_6 hop => exact .of_row (by decide) hop rfl (encode_plain_eq_word rfl)
  case h_7 hop => exact .of_row (by decide) hop rfl (encode_bit_eq_word rfl)
  case h_8 hop => exact .of_row (by decide) hop rfl (encode_plain_eq_word rfl)
  case h_9 hop => exact .of_row (by decide) hop rfl encode_block_eq_word
  case h_10 =>
    exact .unassigned (by simp_all [opAssigned, ← BitVec.toNat_inj])

theorem decode_of_unassigned {w : Word} (h : opAssigned (opOf w) = false) :
    decode w = .error (.illegalOpcode (opOf w)) := by
  match decode w, decode_decodes w with
  | _, .unassigned _ => rfl
  | _, .reserved hop _ => exact absurd hop (by simp [h])
  | _, .command _ hop _ _ => exact absurd hop (by simp [h])

theorem decode_of_reserved {w : Word} (hop : opAssigned (opOf w) = true) (h : w &&& reservedMask (opOf w) ≠ 0) :
    decode w = .error (.reservedBits (opOf w)) := by
  match decode w, decode_decodes w with
  | _, .unassigned hu => exact absurd hop (by simp [hu])
  | _, .reserved _ _ => rfl
  | _, .command _ _ hr _ => exact absurd hr h

theorem decode_of_clear {w : Word} (hop : opAssigned (opOf w) = true) (h : w &&& reservedMask (opOf w) = 0) :
    ∃ i, decode w = .ok i ∧ encode i = w := by
  match decode w, decode_decodes w with
  | _, .unassigned hu => exact absurd hop (by simp [hu])
  | _, .reserved _ hr => exact absurd h hr
  | _, .command i _ _ he => exact ⟨i, rfl, he⟩

theorem encode_of_decode {w : Word} {i : Instr} (h : decode w = .ok i) : encode i = w := by
  have hw := decode_decodes w
  rw [h] at hw
  cases hw with
  | command _ _ _ he => exact he

/-- Settles O3: of the three outcomes only a command is an instruction. -/
theorem encodeInvertsDecode : Obligations.EncodeInvertsDecode :=
  fun _ _ => encode_of_decode

/-! #### The checks of a CMD write -/

theorem Device.busy_of_seq_ne {d : Device} (h : d.seq ≠ .idle) : d.busy = true := by
  rw [← Bool.not_eq_false]
  exact mt Device.busy_eq_false h

theorem Device.busy_of_seq_idle {d : Device} (h : d.seq = .idle) : d.busy = false := by
  simp [Device.busy, h, SeqPoint.phase]

theorem Device.issue_of_busy {d : Device} (h : d.busy = true) (inRange : Bool) (own : Option ErrBit)
    (effect : Device) : d.issue inRange own effect = d.raise .busy :=
  if_pos h

theorem Device.issue_of_badArg {d : Device} (h : d.busy = false) (own : Option ErrBit) (effect : Device) :
    d.issue false own effect = d.raise .badArg := by
  simp [Device.issue, h]

/-- Every command but NOP is issued through the shared checks, with its own range check (60_exceptions.md R344). -/
theorem exec_eq_issue {i : Instr} (h : i ≠ .nop) (s : State) :
    ∃ own effect, exec i s = .next (s.withDev (s.dev.issue (s.dev.inRange i) own effect)) := by
  cases i with
  | nop => exact absurd rfl h
  | eccGen r => exact ⟨_, _, rfl⟩
  | eccVerify r => exact ⟨_, _, rfl⟩
  | rngStart => exact ⟨_, _, rfl⟩
  | rngBitsStart off len => exact ⟨_, _, rfl⟩
  | bufSwap => exact ⟨_, _, rfl⟩
  | twinNegotiate f => exact ⟨_, _, rfl⟩
  | twinReplicate => exact ⟨_, _, rfl⟩
  | blockChecksum b => exact ⟨_, _, rfl⟩

theorem exec_of_busy {i : Instr} {s : State} (hi : i ≠ .nop) (hs : s.dev.seq ≠ .idle) :
    exec i s = .next (s.withErr 0x002) := by
  obtain ⟨own, effect, he⟩ := exec_eq_issue hi s
  rw [he, Device.issue_of_busy (Device.busy_of_seq_ne hs)]
  rfl

theorem exec_of_badArg {i : Instr} {s : State} (hi : i ≠ .nop) (hs : s.dev.seq = .idle)
    (hr : s.dev.inRange i = false) : exec i s = .next (s.withErr 0x004) := by
  obtain ⟨own, effect, he⟩ := exec_eq_issue hi s
  rw [he, hr, Device.issue_of_badArg (Device.busy_of_seq_idle hs)]
  rfl

theorem opcode_eq_zero_iff (i : Instr) : opcode i = 0x00 ↔ i = .nop := by
  cases i <;> simp [opcode]

theorem ne_nop_of_encode {w : Word} {i : Instr} (he : encode i = w) (h : opOf w ≠ 0x00) : i ≠ .nop := by
  rwa [← he, opOf_encode, ne_eq, opcode_eq_zero_iff] at h

/-- The range check of an instruction is that of its word (30_encoding.md R126). -/
theorem operandInRange_encode (d : Device) (i : Instr) :
    operandInRange d.params.blockCount (encode i) = d.inRange i := by
  unfold operandInRange
  rw [opOf_encode]
  cases i with
  | nop => rfl
  | eccGen r => rfl
  | eccVerify r => rfl
  | rngStart => rfl
  | rngBitsStart off len =>
    rw [off_encode, len_encode]
    rfl
  | bufSwap => rfl
  | twinNegotiate f => rfl
  | twinReplicate => rfl
  | blockChecksum b =>
    rw [block_encode]
    simp [opcode, Device.inRange, Device.validBlock, Nat.one_le_iff_ne_zero]

theorem Device.rejectCommand_reserved_of_busy {d : Device} {op : Byte} (hop : op ≠ 0x00) (hs : d.seq ≠ .idle) :
    d.rejectCommand (.reservedBits op) = d.raise .busy :=
  if_pos ⟨hop, Device.busy_of_seq_ne hs⟩

theorem Device.rejectCommand_reserved_of_free {d : Device} {op : Byte} (h : ¬ (op ≠ 0x00 ∧ d.seq ≠ .idle)) :
    d.rejectCommand (.reservedBits op) = d.raise .badArg :=
  if_neg fun ⟨hop, hb⟩ => h ⟨hop, fun hs => by rw [Device.busy_of_seq_idle hs] at hb; cases hb⟩

theorem issueCommand_of_error {w : Word} {r : Reject} (h : decode w = .error r) (s : State) :
    issueCommand w s = .next (s.withDev (s.dev.rejectCommand r)) := by
  rw [issueCommand, h]

theorem issueCommand_of_ok {w : Word} {i : Instr} (h : decode w = .ok i) (s : State) :
    issueCommand w s = exec i s := by
  rw [issueCommand, h]

theorem issueCommand_of_unassigned {w : Word} (h : opAssigned (opOf w) = false) (s : State) :
    issueCommand w s = .next (s.withErr 0x001) := by
  rw [issueCommand_of_error (decode_of_unassigned h)]
  rfl

theorem issueCommand_of_busy {w : Word} {s : State} (hop : opAssigned (opOf w) = true) (h0 : opOf w ≠ 0x00)
    (hs : s.dev.seq ≠ .idle) : issueCommand w s = .next (s.withErr 0x002) := by
  by_cases hr : w &&& reservedMask (opOf w) = 0
  · obtain ⟨i, hd, he⟩ := decode_of_clear hop hr
    rw [issueCommand_of_ok hd, exec_of_busy (ne_nop_of_encode he h0) hs]
  · rw [issueCommand_of_error (decode_of_reserved hop hr), Device.rejectCommand_reserved_of_busy h0 hs]
    rfl

theorem issueCommand_of_badArg {w : Word} {s : State} (hop : opAssigned (opOf w) = true)
    (hs : ¬ (opOf w ≠ 0x00 ∧ s.dev.seq ≠ .idle))
    (h : w &&& reservedMask (opOf w) ≠ 0 ∨ operandInRange s.dev.params.blockCount w = false) :
    issueCommand w s = .next (s.withErr 0x004) := by
  by_cases hr : w &&& reservedMask (opOf w) = 0
  · obtain ⟨i, hd, rfl⟩ := decode_of_clear hop hr
    have range : s.dev.inRange i = false := by
      rw [← operandInRange_encode]
      exact h.resolve_left (not_not_intro hr)
    have ne : i ≠ .nop := by rintro rfl; cases range
    have idle : s.dev.seq = .idle := by
      by_contra hb
      exact hs ⟨by rwa [opOf_encode, ne_eq, opcode_eq_zero_iff], hb⟩
    rw [issueCommand_of_ok hd, exec_of_badArg ne idle range]
  · rw [issueCommand_of_error (decode_of_reserved hop hr), Device.rejectCommand_reserved_of_free hs]
    rfl

/-- Settles O4: the opcodes by their values, then a CMD write by the first check that fails. -/
theorem commandChecksInOrder : Obligations.CommandChecksInOrder := by
  refine ⟨opAssigned_eq_false_iff, fun w s => ?_⟩
  have issue : hostStep (.write32 0x000 w) s = issueCommand w s := rfl
  rw [issue]
  split
  · next hu => exact issueCommand_of_unassigned hu s
  · next ha =>
    replace ha : opAssigned (opOf w) = true := by simpa using ha
    split
    · next hb =>
      obtain ⟨h0, hs⟩ := hb
      exact issueCommand_of_busy ha h0 hs
    · next hb =>
      split
      · next hr => exact issueCommand_of_badArg ha hb hr
      · next hr =>
        obtain ⟨clear, _⟩ := not_or.mp hr
        obtain ⟨i, hd, he⟩ := decode_of_clear ha (not_not.mp clear)
        exact ⟨i, hd, he, issueCommand_of_ok hd s⟩

end Sys2Proof.Machine
end

section
/-! ### Counting bits (00_scope.md R11) -/

namespace Sys2Proof.Machine

/-- Two sets counted together count their common part twice. -/
theorem countP_xor_add (f g : Nat → Bool) (l : List Nat) :
    l.countP (fun i => f i ^^ g i) + 2 * l.countP (fun i => f i && g i) = l.countP f + l.countP g := by
  induction l with
  | nil => rfl
  | cons x xs ih =>
    simp only [List.countP_cons]
    cases f x <;> cases g x <;> simp <;> omega

theorem popcount_xor_add {w : Nat} (x y : BitVec w) :
    popcount (x ^^^ y) + 2 * popcount (x &&& y) = popcount x + popcount y := by
  simp only [popcount, BitVec.getLsbD_xor, BitVec.getLsbD_and]
  exact countP_xor_add _ _ _

theorem parity_xor {w : Nat} (x y : BitVec w) : parity (x ^^^ y) = (parity x ^^ parity y) := by
  have add := popcount_xor_add x y
  have even : popcount (x ^^^ y) % 2 = (popcount x + popcount y) % 2 := by omega
  rcases Nat.mod_two_eq_zero_or_one (popcount x) with hx | hx <;>
    rcases Nat.mod_two_eq_zero_or_one (popcount y) with hy | hy <;> simp [parity, even, Nat.add_mod, hx, hy]

@[simp] theorem popcount_ofBool (b : Bool) : popcount (BitVec.ofBool b) = b.toNat := by
  cases b <;> rfl

/-- The low part first, then the high part. -/
theorem popcount_append {w v : Nat} (x : BitVec w) (y : BitVec v) : popcount (x ++ y) = popcount x + popcount y := by
  have low : (List.range v).countP (fun i => (x ++ y).getLsbD i) = popcount y :=
    List.countP_congr fun i hi => by simp [BitVec.getLsbD_append, List.mem_range.mp hi]
  have high : ((List.range w).map (v + ·)).countP (fun i => (x ++ y).getLsbD i) = popcount x := by
    rw [List.countP_map]
    exact List.countP_congr fun i _ => by simp [BitVec.getLsbD_append]
  have split : List.range (w + v) = List.range v ++ (List.range w).map (v + ·) := by
    rw [Nat.add_comm, List.range_add]
  rw [popcount, split, List.countP_append, low, high, Nat.add_comm]

theorem popcount_not_add {w : Nat} (x : BitVec w) : popcount (~~~x) + popcount x = w := by
  have h := List.length_eq_countP_add_countP (fun i => x.getLsbD i) (l := List.range w)
  have flip : popcount (~~~x) = (List.range w).countP (fun i => decide ¬x.getLsbD i = true) :=
    List.countP_congr fun i hi => by simp [List.mem_range.mp hi]
  rw [flip, Nat.add_comm]
  exact h.symm.trans List.length_range

theorem popcount_eq_zero_iff {w : Nat} (x : BitVec w) : popcount x = 0 ↔ x = 0#w := by
  rw [popcount, List.countP_eq_zero]
  constructor
  · intro h
    exact BitVec.eq_of_getLsbD_eq fun i hi => by simpa using h i (List.mem_range.mpr hi)
  · rintro rfl
    simp

theorem getLsbD_one_shiftLeft {w b : Nat} (j : Nat) (h : b < w) : (1#w <<< j).getLsbD b = decide (b = j) := by
  rw [← BitVec.twoPow_eq, BitVec.getLsbD_twoPow]
  rcases eq_or_ne b j with rfl | hb
  · simp [h]
  · simp [hb, hb.symm]

theorem popcount_one_shiftLeft {w b : Nat} (h : b < w) : popcount (1#w <<< b) = 1 := by
  have only : popcount (1#w <<< b) = (List.range w).count b :=
    List.countP_congr fun i hi => by simp [getLsbD_one_shiftLeft b (List.mem_range.mp hi)]
  rw [only, List.count_eq_one_of_mem List.nodup_range (List.mem_range.mpr h)]

/-- Inverting one bit takes it from the count or adds it. -/
theorem popcount_xor_bit {w b : Nat} (x : BitVec w) (h : b < w) :
    popcount (x ^^^ (1#w <<< b)) = if x.getLsbD b then popcount x - 1 else popcount x + 1 := by
  have add := popcount_xor_add x (1#w <<< b)
  have common : popcount (x &&& (1#w <<< b)) = if x.getLsbD b then 1 else 0 := by
    rw [← BitVec.twoPow_eq, BitVec.and_twoPow, BitVec.twoPow_eq]
    split
    · exact popcount_one_shiftLeft h
    · exact (popcount_eq_zero_iff _).mpr rfl
  rw [popcount_one_shiftLeft h, common] at add
  split at add
  · next hb => rw [if_pos hb]; omega
  · next hb => rw [if_neg hb]; omega

/-- The complements of two words differ where the words do. -/
theorem not_xor_not {w : Nat} (x y : BitVec w) : ~~~x ^^^ ~~~y = x ^^^ y := by
  rw [← BitVec.not_xor_left, ← BitVec.not_xor_right, BitVec.not_not]

end Sys2Proof.Machine
end

section
/-! ### The 25 bits by their places (40_ecc.md R160) -/

namespace Sys2Proof.Machine

/-- A 25-bit word by its parts, in the places of 40_ecc.md R160: the parity word and the syndrome of one bit are both
of this form. -/
def codeWord (ext c5 c4 c3 c2 c1 c0 : Bool) (lpn lp : BitVec 9) : BitVec 25 :=
  BitVec.ofBool ext ++ BitVec.ofBool c5 ++ BitVec.ofBool c4 ++ BitVec.ofBool c3 ++ BitVec.ofBool c2 ++
    BitVec.ofBool c1 ++ BitVec.ofBool c0 ++ lpn ++ lp

theorem ParityAcc.word_eq_codeWord (a : ParityAcc) :
    a.word = codeWord (parity a.c) (parity (a.c &&& 0xF0)) (parity (a.c &&& 0x0F)) (parity (a.c &&& 0xCC))
      (parity (a.c &&& 0x33)) (parity (a.c &&& 0xAA)) (parity (a.c &&& 0x55)) a.lpn a.lp :=
  rfl

theorem flipSyndrome_eq_codeWord (k j : Nat) :
    flipSyndrome k j = codeWord true (j.testBit 2) (!j.testBit 2) (j.testBit 1) (!j.testBit 1) (j.testBit 0)
      (!j.testBit 0) (~~~(BitVec.ofNat 9 k)) (BitVec.ofNat 9 k) :=
  rfl

section
variable (ext c5 c4 c3 c2 c1 c0 : Bool) (lpn lp : BitVec 9)

theorem codeWord_xor_codeWord (ext' c5' c4' c3' c2' c1' c0' : Bool) (lpn' lp' : BitVec 9) :
    codeWord ext c5 c4 c3 c2 c1 c0 lpn lp ^^^ codeWord ext' c5' c4' c3' c2' c1' c0' lpn' lp' =
      codeWord (ext ^^ ext') (c5 ^^ c5') (c4 ^^ c4') (c3 ^^ c3') (c2 ^^ c2') (c1 ^^ c1') (c0 ^^ c0')
        (lpn ^^^ lpn') (lp ^^^ lp') := by
  simp only [codeWord, ← BitVec.ofBool_xor_ofBool, ← BitVec.xor_append]

theorem popcount_codeWord :
    popcount (codeWord ext c5 c4 c3 c2 c1 c0 lpn lp) =
      ext.toNat + c5.toNat + c4.toNat + c3.toNat + c2.toNat + c1.toNat + c0.toNat + popcount lpn + popcount lp := by
  simp only [codeWord, popcount_append, popcount_ofBool]

@[simp] theorem extractLsb'_codeWord : (codeWord ext c5 c4 c3 c2 c1 c0 lpn lp).extractLsb' 0 9 = lp :=
  BitVec.extractLsb'_append_eq_right

/-- The seven high bits of a word by its parts. -/
theorem getLsbD_codeWord :
    (codeWord ext c5 c4 c3 c2 c1 c0 lpn lp).getLsbD 24 = ext ∧
    (codeWord ext c5 c4 c3 c2 c1 c0 lpn lp).getLsbD 23 = c5 ∧ (codeWord ext c5 c4 c3 c2 c1 c0 lpn lp).getLsbD 22 = c4 ∧
    (codeWord ext c5 c4 c3 c2 c1 c0 lpn lp).getLsbD 21 = c3 ∧ (codeWord ext c5 c4 c3 c2 c1 c0 lpn lp).getLsbD 20 = c2 ∧
    (codeWord ext c5 c4 c3 c2 c1 c0 lpn lp).getLsbD 19 = c1 ∧
    (codeWord ext c5 c4 c3 c2 c1 c0 lpn lp).getLsbD 18 = c0 := by
  simp only [codeWord, BitVec.getLsbD_append]
  simp

end

end Sys2Proof.Machine
end

section
/-! ### The parity word (40_ecc.md R160, R175) -/

namespace Sys2Proof.Machine

theorem ParityAcc.eq_of_fields {a b : ParityAcc} (lp : a.lp = b.lp) (lpn : a.lpn = b.lpn) (c : a.c = b.c) : a = b := by
  cases a
  cases b
  simp_all

@[simp] theorem parityStep_c (a : ParityAcc) (i : Nat) (x : Byte) : (parityStep a i x).c = a.c ^^^ x := by
  unfold parityStep
  split <;> rfl

@[simp] theorem parityStep_lp (a : ParityAcc) (i : Nat) (x : Byte) :
    (parityStep a i x).lp = if parity x then a.lp ^^^ BitVec.ofNat 9 i else a.lp := by
  unfold parityStep
  split <;> rfl

@[simp] theorem parityStep_lpn (a : ParityAcc) (i : Nat) (x : Byte) :
    (parityStep a i x).lpn = if parity x then a.lpn ^^^ ~~~(BitVec.ofNat 9 i) else a.lpn := by
  unfold parityStep
  split <;> rfl

/-- The order in which bytes are taken in makes no difference. -/
theorem parityStep_comm (a : ParityAcc) (i j : Nat) (x y : Byte) :
    parityStep (parityStep a i x) j y = parityStep (parityStep a j y) i x := by
  apply ParityAcc.eq_of_fields
  · simp only [parityStep_lp]
    split <;> split <;> ac_rfl
  · simp only [parityStep_lpn]
    split <;> split <;> ac_rfl
  · simp only [parityStep_c]
    ac_rfl

/-- A change of a byte is taken in like a byte of its own. -/
theorem parityStep_xor (a : ParityAcc) (i : Nat) (x y : Byte) :
    parityStep a i (x ^^^ y) = parityStep (parityStep a i x) i y := by
  apply ParityAcc.eq_of_fields
  · simp only [parityStep_lp, parity_xor]
    cases parity x <;> cases parity y <;> simp
  · simp only [parityStep_lpn, parity_xor]
    cases parity x <;> cases parity y <;> simp
  · simp only [parityStep_c, BitVec.xor_assoc]

theorem flipBit_same (d : Nat → Byte) (k j : Nat) : flipBit d k j k = d k ^^^ (1#8 <<< j) :=
  if_pos rfl

theorem flipBit_other (d : Nat → Byte) {k i : Nat} (j : Nat) (h : i ≠ k) : flipBit d k j i = d i :=
  if_neg h

/-- Inverting a bit twice restores the data. -/
theorem flipBit_flipBit (d : Nat → Byte) (k j : Nat) : flipBit (flipBit d k j) k j = d := by
  funext i
  by_cases h : i = k
  · subst h
    rw [flipBit_same, flipBit_same, BitVec.xor_assoc, BitVec.xor_self, BitVec.xor_zero]
  · rw [flipBit_other _ _ h, flipBit_other _ _ h]

/-- An inverted bit of byte `k` is taken in as one more byte at index `k`. -/
theorem parityAcc_flipBit (d : Nat → Byte) (k j n : Nat) :
    parityAcc (flipBit d k j) n =
      if k < n then parityStep (parityAcc d n) k (1#8 <<< j) else parityAcc d n := by
  induction n with
  | zero => rfl
  | succ n ih =>
    rw [parityAcc, parityAcc, ih]
    rcases Nat.lt_trichotomy k n with h | rfl | h
    · rw [if_pos h, if_pos (by omega), flipBit_other d j (by omega), parityStep_comm]
    · rw [if_neg (by omega), if_pos (by omega), flipBit_same, parityStep_xor]
    · rw [if_neg (by omega), if_neg (by omega), flipBit_other d j (by omega)]

/-- The masked parities of one bit `j` of a byte (40_ecc.md R170). -/
theorem parity_bit {j : Nat} (h : j < 8) :
    parity (1#8 <<< j) = true ∧
    parity (1#8 <<< j &&& 0xF0) = j.testBit 2 ∧ parity (1#8 <<< j &&& 0x0F) = !j.testBit 2 ∧
    parity (1#8 <<< j &&& 0xCC) = j.testBit 1 ∧ parity (1#8 <<< j &&& 0x33) = !j.testBit 1 ∧
    parity (1#8 <<< j &&& 0xAA) = j.testBit 0 ∧ parity (1#8 <<< j &&& 0x55) = !j.testBit 0 := by
  revert j
  decide

theorem parity_xor_and (x y m : Byte) : parity ((x ^^^ y) &&& m) = (parity (x &&& m) ^^ parity (y &&& m)) := by
  rw [← parity_xor]
  congr 1
  apply BitVec.eq_of_getLsbD_eq
  intro i _
  simp only [BitVec.getLsbD_and, BitVec.getLsbD_xor, Bool.and_xor_distrib_right]

/-- One bit of byte `k` changes the parity word by its syndrome (40_ecc.md R170). -/
theorem word_parityStep_bit (a : ParityAcc) (k : Nat) {j : Nat} (h : j < 8) :
    (parityStep a k (1#8 <<< j)).word = a.word ^^^ flipSyndrome k j := by
  obtain ⟨odd, f0, x0f, cc, x33, aa, x55⟩ := parity_bit h
  simp only [ParityAcc.word_eq_codeWord, flipSyndrome_eq_codeWord, codeWord_xor_codeWord, parityStep_c, parityStep_lp,
    parityStep_lpn, parity_xor_and, parity_xor, odd, f0, x0f, cc, x33, aa, x55, if_true]

theorem eccRaw_flipBit (d : Nat → Byte) {k j : Nat} (hk : k < 512) (hj : j < 8) :
    eccRaw (flipBit d k j) = eccRaw d ^^^ flipSyndrome k j := by
  rw [eccRaw, parityAcc_flipBit, if_pos hk, word_parityStep_bit _ _ hj, eccRaw]

/-- A mask and its complement part the bits of a byte. -/
theorem parity_eq_xor_masks (c m : Byte) : parity c = (parity (c &&& m) ^^ parity (c &&& ~~~m)) := by
  rw [← parity_xor]
  congr 1
  apply BitVec.eq_of_getLsbD_eq
  intro i hi
  simp only [BitVec.getLsbD_xor, BitVec.getLsbD_and, BitVec.getLsbD_not, hi, decide_true, Bool.true_and]
  cases m.getLsbD i <;> simp

/-- Settles O23: the masks of a pair of column parities are complements. -/
theorem extendedBitIsEachColumnPair : Obligations.ExtendedBitIsEachColumnPair := by
  intro d
  simp only [eccRaw, ParityAcc.word_eq_codeWord, getLsbD_codeWord]
  exact ⟨parity_eq_xor_masks _ 0x55, parity_eq_xor_masks _ 0x33, parity_eq_xor_masks _ 0x0F⟩

end Sys2Proof.Machine
end

section
/-! ### The syndrome and the dispatch (40_ecc.md R162, R163) -/

namespace Sys2Proof.Machine

theorem setWidth_eccGen (d : Nat → Byte) : (eccGen d).setWidth 25 = ~~~(eccRaw d) := by
  simp [eccGen]

theorem eccGen_toNat_lt (d : Nat → Byte) : (eccGen d).toNat < 2 ^ 25 := by
  rw [eccGen, BitVec.toNat_setWidth_of_le (by decide)]
  exact (~~~(eccRaw d)).isLt

/-- Of a code only bits [24:0] are compared (40_ecc.md R162). -/
theorem eccSyndrome_eq (d : Nat → Byte) (code : Word) :
    eccSyndrome d code = (eccGen d).setWidth 25 ^^^ code.setWidth 25 :=
  BitVec.setWidth_xor

@[simp] theorem eccSyndrome_eccGen (d : Nat → Byte) : eccSyndrome d (eccGen d) = 0#25 := by
  rw [eccSyndrome_eq, BitVec.xor_self]

/-- An inverted data bit adds its syndrome, whatever the stored code (40_ecc.md R170). -/
theorem eccSyndrome_flipBit (d : Nat → Byte) (code : Word) {k j : Nat} (hk : k < 512) (hj : j < 8) :
    eccSyndrome (flipBit d k j) code = eccSyndrome d code ^^^ flipSyndrome k j := by
  rw [eccSyndrome_eq, eccSyndrome_eq, setWidth_eccGen, setWidth_eccGen, eccRaw_flipBit d hk hj, BitVec.not_xor_left]
  ac_rfl

/-- The weight and the extended bit together count every bit of the syndrome. -/
theorem synWeight_add_synExt (syn : BitVec 25) : synWeight syn + (synExt syn).toNat = popcount syn := by
  have low : synWeight syn = (List.range 24).countP (fun i => syn.getLsbD i) :=
    List.countP_congr fun i hi => by simp [List.mem_range.mp hi]
  rw [popcount, List.range_succ, List.countP_append, low, List.countP_singleton]
  simp only [synExt, Bool.toNat, cond_eq_ite]

theorem ne_zero_of_popcount_pos {w : Nat} {x : BitVec w} (h : 0 < popcount x) : x ≠ 0#w :=
  fun hx => h.ne' ((popcount_eq_zero_iff x).mpr hx)

theorem eccDispatch_zero : eccDispatch 0#25 = .noError :=
  if_pos rfl

theorem eccDispatch_codeError {syn : BitVec 25} (h : popcount syn = 1) : eccDispatch syn = .codeError := by
  have nonzero : syn ≠ 0 := ne_zero_of_popcount_pos (by omega)
  rw [eccDispatch, if_neg nonzero, if_pos ((synWeight_add_synExt syn).trans h)]

theorem eccDispatch_corrected {syn : BitVec 25} (hw : synWeight syn = 12) (he : synExt syn = true) :
    eccDispatch syn = .corrected := by
  have nonzero : syn ≠ 0 := by
    rintro rfl
    exact absurd he (by decide)
  rw [eccDispatch, if_neg nonzero, if_neg (by rw [hw, he]; decide), if_pos ⟨hw, he⟩]

theorem eccDispatch_uncorrectable {syn : BitVec 25} (h : 2 ≤ popcount syn)
    (hc : ¬ (synWeight syn = 12 ∧ synExt syn = true)) : eccDispatch syn = .uncorrectable := by
  have nonzero : syn ≠ 0 := ne_zero_of_popcount_pos (by omega)
  rw [eccDispatch, if_neg nonzero, if_neg (by rw [synWeight_add_synExt]; omega), if_neg hc]

theorem eccVerify_res (d : Nat → Byte) (code : Word) : (eccVerify d code).res = eccDispatch (eccSyndrome d code) := rfl

theorem eccVerify_syn (d : Nat → Byte) (code : Word) : (eccVerify d code).syn = eccSyndrome d code := rfl

theorem eccVerify_data_of_corrected {d : Nat → Byte} {code : Word} (h : (eccVerify d code).res = .corrected) :
    (eccVerify d code).data = flipBit d (synByte (eccSyndrome d code)) (synBit (eccSyndrome d code)) :=
  if_pos h

/-- Only a correction changes the data (40_ecc.md R169). -/
theorem eccVerify_data_of_ne {d : Nat → Byte} {code : Word} (h : (eccVerify d code).res ≠ .corrected) :
    (eccVerify d code).data = d :=
  if_neg h

theorem synByte_lt (syn : BitVec 25) : synByte syn < 512 :=
  (syn.extractLsb' 0 9).isLt

theorem synBit_eq (syn : BitVec 25) :
    synBit syn = 4 * (syn.getLsbD 23).toNat + 2 * (syn.getLsbD 21).toNat + (syn.getLsbD 19).toNat := by
  unfold synBit
  cases syn.getLsbD 23 <;> cases syn.getLsbD 21 <;> cases syn.getLsbD 19 <;> rfl

theorem synBit_lt (syn : BitVec 25) : synBit syn < 8 :=
  (BitVec.ofBool (syn.getLsbD 23) ++ BitVec.ofBool (syn.getLsbD 21) ++ BitVec.ofBool (syn.getLsbD 19)).isLt

theorem getLsbD_flipBit (d : Nat → Byte) (k j i : Nat) {b : Nat} (hb : b < 8) :
    (flipBit d k j i).getLsbD b = if i = k ∧ b = j then !(d i).getLsbD b else (d i).getLsbD b := by
  by_cases hi : i = k
  · subst hi
    rw [flipBit_same, BitVec.getLsbD_xor, getLsbD_one_shiftLeft j hb]
    by_cases hj : b = j <;> simp [hj]
  · rw [flipBit_other d j hi, if_neg fun h => hi h.1]

/-- Settles O17: the position of a correction is read from 9 and from 3 bits of the syndrome. -/
theorem verifyFlipsOneBitOrNone : Obligations.VerifyFlipsOneBitOrNone := by
  intro d code v k j
  have bit : synBit v.syn = j := synBit_eq v.syn
  refine ⟨synByte_lt v.syn, bit ▸ synBit_lt v.syn, fun hr i b hb => ?_, eccVerify_data_of_ne⟩
  rw [eccVerify_data_of_corrected hr, ← bit]
  exact getLsbD_flipBit d _ _ i hb

theorem synExt_xor (x y : BitVec 25) : synExt (x ^^^ y) = (synExt x ^^ synExt y) :=
  BitVec.getLsbD_xor

end Sys2Proof.Machine
end

section
/-! ### The syndrome of inverted bits (40_ecc.md R170 to R173) -/

namespace Sys2Proof.Machine

theorem synExt_flipSyndrome (k j : Nat) : synExt (flipSyndrome k j) = true := by
  obtain ⟨ext, _⟩ := getLsbD_codeWord true (j.testBit 2) (!j.testBit 2) (j.testBit 1) (!j.testBit 1) (j.testBit 0)
    (!j.testBit 0) (~~~(BitVec.ofNat 9 k)) (BitVec.ofNat 9 k)
  exact ext

/-- One of each pair of position bits, and the extended bit (40_ecc.md R170). -/
theorem popcount_flipSyndrome (k j : Nat) : popcount (flipSyndrome k j) = 13 := by
  have line := popcount_not_add (BitVec.ofNat 9 k)
  have column (b : Bool) : b.toNat + (!b).toNat = 1 := by cases b <;> rfl
  have c0 := column (j.testBit 0)
  have c1 := column (j.testBit 1)
  have c2 := column (j.testBit 2)
  rw [flipSyndrome_eq_codeWord, popcount_codeWord, Bool.toNat_true]
  omega

theorem synWeight_flipSyndrome (k j : Nat) : synWeight (flipSyndrome k j) = 12 := by
  have h := synWeight_add_synExt (flipSyndrome k j)
  rw [popcount_flipSyndrome, synExt_flipSyndrome, Bool.toNat_true] at h
  omega

theorem eccDispatch_flipSyndrome (k j : Nat) : eccDispatch (flipSyndrome k j) = .corrected :=
  eccDispatch_corrected (synWeight_flipSyndrome k j) (synExt_flipSyndrome k j)

theorem synByte_flipSyndrome {k : Nat} (hk : k < 512) (j : Nat) : synByte (flipSyndrome k j) = k := by
  rw [synByte, flipSyndrome_eq_codeWord, extractLsb'_codeWord, BitVec.toNat_ofNat, Nat.mod_eq_of_lt hk]

theorem synBit_flipSyndrome (k : Nat) {j : Nat} (hj : j < 8) : synBit (flipSyndrome k j) = j := by
  have bits : ∀ j < 8, 4 * (j.testBit 2).toNat + 2 * (j.testBit 1).toNat + (j.testBit 0).toNat = j := by decide
  simp only [synBit_eq, flipSyndrome_eq_codeWord, getLsbD_codeWord]
  exact bits j hj

/-- Data with the syndrome of bit `j` of byte `k` is corrected in that bit. -/
theorem eccVerify_of_flipSyndrome {d : Nat → Byte} {code : Word} {k j : Nat} (hk : k < 512) (hj : j < 8)
    (h : eccSyndrome d code = flipSyndrome k j) :
    (eccVerify d code).res = .corrected ∧ (eccVerify d code).data = flipBit d k j := by
  have res : (eccVerify d code).res = .corrected := by rw [eccVerify_res, h, eccDispatch_flipSyndrome]
  refine ⟨res, ?_⟩
  rw [eccVerify_data_of_corrected res, h, synByte_flipSyndrome hk, synBit_flipSyndrome k hj]

/-- Every other result leaves the data (40_ecc.md R169). -/
theorem eccVerify_of_not_corrected {d : Nat → Byte} {code : Word} {syn : BitVec 25} {x : EccRes}
    (h : eccSyndrome d code = syn) (hx : eccDispatch syn = x) (hc : x ≠ .corrected) :
    (eccVerify d code).res = x ∧ (eccVerify d code).data = d := by
  have res : (eccVerify d code).res = x := by rw [eccVerify_res, h, hx]
  exact ⟨res, eccVerify_data_of_ne (res ▸ hc)⟩

/-- One inverted data bit against the code of the data (40_ecc.md R170). -/
theorem eccSyndrome_flipBit_eccGen (d : Nat → Byte) {k j : Nat} (hk : k < 512) (hj : j < 8) :
    eccSyndrome (flipBit d k j) (eccGen d) = flipSyndrome k j := by
  rw [eccSyndrome_flipBit d _ hk hj, eccSyndrome_eccGen, BitVec.zero_xor]

/-- Settles O18: the syndrome of the inverted bit names the bit. -/
theorem singleErrorIsCorrected : Obligations.SingleErrorIsCorrected := by
  intro d k j hk hj v
  have syn : v.syn = flipSyndrome k j := eccSyndrome_flipBit_eccGen d hk hj
  obtain ⟨res, data⟩ := eccVerify_of_flipSyndrome hk hj syn
  rw [flipBit_flipBit] at data
  rw [syn]
  exact ⟨rfl, synWeight_flipSyndrome k j, synExt_flipSyndrome k j, res, data⟩

/-- A number below a power of two beside its higher part. -/
theorem ofNat_mul_add_eq_append {w v : Nat} (m : Nat) {r : Nat} (h : r < 2 ^ v) :
    BitVec.ofNat (w + v) (2 ^ v * m + r) = BitVec.ofNat w m ++ BitVec.ofNat v r := by
  apply BitVec.eq_of_toNat_eq
  rw [BitVec.toNat_append, BitVec.toNat_ofNat, BitVec.toNat_ofNat, BitVec.toNat_ofNat, Nat.mod_eq_of_lt h,
    ← Nat.shiftLeft_add_eq_or_of_lt h, Nat.shiftLeft_eq, Nat.pow_add, Nat.mul_comm (2 ^ w)]
  rw [Nat.mod_mul, Nat.mul_add_mod, Nat.mod_eq_of_lt h, Nat.mul_add_div (Nat.two_pow_pos v), Nat.div_eq_of_lt h,
    Nat.add_zero, Nat.mul_comm (2 ^ v), Nat.add_comm]

/-- The position by its line bits and its three column bits (40_ecc.md R171). -/
theorem bitPosition_eq_append (k : Nat) {j : Nat} (hj : j < 8) :
    bitPosition k j = BitVec.ofNat 9 k ++
      (BitVec.ofBool (j.testBit 2) ++ BitVec.ofBool (j.testBit 1) ++ BitVec.ofBool (j.testBit 0)) := by
  have bits : ∀ j < 8, BitVec.ofNat 3 j =
      BitVec.ofBool (j.testBit 2) ++ BitVec.ofBool (j.testBit 1) ++ BitVec.ofBool (j.testBit 0) := by decide
  rw [← bits j hj]
  exact ofNat_mul_add_eq_append (w := 9) (v := 3) k hj

theorem bitPosition_inj {k j k' j' : Nat} (hk : k < 512) (hj : j < 8) (hk' : k' < 512) (hj' : j' < 8)
    (h : bitPosition k j = bitPosition k' j') : (k, j) = (k', j') := by
  have nat := congrArg BitVec.toNat h
  simp only [bitPosition, BitVec.toNat_ofNat] at nat
  rw [Nat.mod_eq_of_lt (by omega), Nat.mod_eq_of_lt (by omega)] at nat
  exact Prod.ext (by dsimp only; omega) (by dsimp only; omega)

/-- The syndromes of two bits differ in both bits of every pair in which the positions differ (40_ecc.md R171). -/
theorem popcount_flipSyndrome_xor (k k' : Nat) {j j' : Nat} (hj : j < 8) (hj' : j' < 8) :
    popcount (flipSyndrome k j ^^^ flipSyndrome k' j') = 2 * popcount (bitPosition k j ^^^ bitPosition k' j') := by
  have column (b b' : Bool) : ((!b) ^^ (!b')).toNat = (b ^^ b').toNat := by cases b <;> cases b' <;> rfl
  rw [bitPosition_eq_append k hj, bitPosition_eq_append k' hj', BitVec.xor_append, BitVec.xor_append, BitVec.xor_append]
  simp only [flipSyndrome_eq_codeWord, codeWord_xor_codeWord, popcount_codeWord, popcount_append, popcount_ofBool,
    BitVec.ofBool_xor_ofBool, column, not_xor_not, Bool.xor_self, Bool.toNat_false]
  omega

/-- Settles O19: the differing position bits are counted twice, and two bits differ in one at least. -/
theorem doubleErrorIsUncorrectable : Obligations.DoubleErrorIsUncorrectable := by
  intro d k1 j1 k2 j2 hk1 hj1 hk2 hj2 hne e v
  have syn : v.syn = flipSyndrome k1 j1 ^^^ flipSyndrome k2 j2 := by
    rw [eccVerify_syn, eccSyndrome_flipBit _ _ hk2 hj2, eccSyndrome_flipBit_eccGen d hk1 hj1]
  have ext : synExt (flipSyndrome k1 j1 ^^^ flipSyndrome k2 j2) = false := by
    rw [synExt_xor, synExt_flipSyndrome, synExt_flipSyndrome, Bool.xor_self]
  have count := popcount_flipSyndrome_xor k1 k2 hj1 hj2
  have differ : popcount (bitPosition k1 j1 ^^^ bitPosition k2 j2) ≠ 0 := by
    rw [ne_eq, popcount_eq_zero_iff, BitVec.xor_eq_zero_iff]
    exact fun h => hne (bitPosition_inj hk1 hj1 hk2 hj2 h)
  have weight := synWeight_add_synExt (flipSyndrome k1 j1 ^^^ flipSyndrome k2 j2)
  rw [ext, Bool.toNat_false, Nat.add_zero] at weight
  have dispatch : eccDispatch (flipSyndrome k1 j1 ^^^ flipSyndrome k2 j2) = .uncorrectable :=
    eccDispatch_uncorrectable (by omega) (by simp [ext])
  obtain ⟨res, data⟩ := eccVerify_of_not_corrected syn dispatch (by decide)
  rw [syn]
  exact ⟨rfl, ext, weight.trans count, ne_zero_of_popcount_pos (by omega), res, data⟩

/-- A stored code that differs from the right one by `e` (40_ecc.md R172). -/
theorem eccSyndrome_of_code {d : Nat → Byte} {code : Word} {e : BitVec 25}
    (h : code.setWidth 25 = (eccGen d).setWidth 25 ^^^ e) : eccSyndrome d code = e := by
  rw [eccSyndrome_eq, h, ← BitVec.xor_assoc, BitVec.xor_self, BitVec.zero_xor]

/-- A code bit wrong beside a data bit takes one of the 13 bits away or adds one (40_ecc.md R172). -/
theorem flipSyndrome_xor_codeBit (k j : Nat) {b : Nat} (hb : b < 25) :
    if b = 24 then synExt (flipSyndrome k j ^^^ (1#25 <<< b)) = false ∧
      synWeight (flipSyndrome k j ^^^ (1#25 <<< b)) = 12
    else synExt (flipSyndrome k j ^^^ (1#25 <<< b)) = true ∧
      synWeight (flipSyndrome k j ^^^ (1#25 <<< b)) = if (flipSyndrome k j).getLsbD b then 11 else 13 := by
  have count := popcount_xor_bit (flipSyndrome k j) hb
  have weight := synWeight_add_synExt (flipSyndrome k j ^^^ (1#25 <<< b))
  have ext : synExt (flipSyndrome k j ^^^ (1#25 <<< b)) = !decide (24 = b) := by
    rw [synExt_xor, synExt_flipSyndrome, synExt, getLsbD_one_shiftLeft b (by decide), Bool.true_xor]
  rw [popcount_flipSyndrome] at count
  split
  · next h =>
    subst h
    have hit : (flipSyndrome k j).getLsbD 24 = true := synExt_flipSyndrome k j
    rw [ext, count, if_pos hit] at weight
    exact ⟨ext, weight⟩
  · next h =>
    rw [decide_eq_false (Ne.symm h), Bool.not_false] at ext
    rw [ext, count, Bool.toNat_true] at weight
    refine ⟨ext, ?_⟩
    split at weight
    · next hit => rw [if_pos hit]; omega
    · next hit => rw [if_neg hit]; omega

theorem eccDispatch_flipSyndrome_xor_codeBit (k j : Nat) {b : Nat} (hb : b < 25) :
    eccDispatch (flipSyndrome k j ^^^ (1#25 <<< b)) = .uncorrectable := by
  have weight := synWeight_add_synExt (flipSyndrome k j ^^^ (1#25 <<< b))
  have weights := flipSyndrome_xor_codeBit k j hb
  split at weights
  · obtain ⟨ext, w⟩ := weights
    exact eccDispatch_uncorrectable (by omega) (by simp [ext])
  · obtain ⟨_, w⟩ := weights
    have ne : synWeight (flipSyndrome k j ^^^ (1#25 <<< b)) ≠ 12 := by split at w <;> omega
    exact eccDispatch_uncorrectable (by split at w <;> omega) fun h => ne h.1

/-- Settles O20: the syndrome is the wrong code bits, with a data bit its syndrome with one bit inverted. -/
theorem storedCodeErrors : Obligations.StoredCodeErrors := by
  intro d code
  refine ⟨fun h => ?_, fun b hb h => ⟨?_, fun k j hk hj => ?_⟩⟩
  · have syn : eccSyndrome d code = 0#25 := eccSyndrome_of_code (by rw [h, BitVec.xor_zero])
    exact ⟨syn, eccVerify_of_not_corrected syn eccDispatch_zero (by decide)⟩
  · have syn : eccSyndrome d code = 1#25 <<< b := eccSyndrome_of_code h
    have dispatch := eccDispatch_codeError (popcount_one_shiftLeft hb)
    exact ⟨syn, eccVerify_of_not_corrected syn dispatch (by decide)⟩
  · intro v
    have syn : eccSyndrome (flipBit d k j) code = flipSyndrome k j ^^^ (1#25 <<< b) := by
      rw [eccSyndrome_flipBit d code hk hj, eccSyndrome_of_code h, BitVec.xor_comm]
    have weights := flipSyndrome_xor_codeBit k j hb
    have dispatch := eccDispatch_flipSyndrome_xor_codeBit k j hb
    obtain ⟨res, data⟩ := eccVerify_of_not_corrected syn dispatch (by decide)
    exact ⟨res, data, by rw [eccVerify_syn, syn]; exact weights⟩

/-- Three inverted bits have the syndrome of one, at the exclusive-or of their positions (40_ecc.md R173). -/
theorem flipSyndrome_xor_xor (k1 j1 k2 j2 k3 j3 : Nat) :
    flipSyndrome k1 j1 ^^^ flipSyndrome k2 j2 ^^^ flipSyndrome k3 j3 =
      flipSyndrome (k1 ^^^ k2 ^^^ k3) (j1 ^^^ j2 ^^^ j3) := by
  have column (a b c : Bool) : ((!a) ^^ (!b) ^^ (!c)) = !(a ^^ b ^^ c) := by cases a <;> cases b <;> cases c <;> rfl
  have line (x y z : BitVec 9) : ~~~x ^^^ ~~~y ^^^ ~~~z = ~~~(x ^^^ y ^^^ z) := by
    rw [not_xor_not, ← BitVec.not_xor_right]
  simp only [flipSyndrome_eq_codeWord, codeWord_xor_codeWord, Nat.testBit_xor, BitVec.ofNat_xor, column, line,
    Bool.true_xor, Bool.not_true, Bool.false_xor]

theorem xor_lt_512 {k k' : Nat} (h : k < 512) (h' : k' < 512) : k ^^^ k' < 512 :=
  Nat.xor_lt_two_pow (n := 9) h h'

theorem xor_lt_8 {j j' : Nat} (h : j < 8) (h' : j' < 8) : j ^^^ j' < 8 :=
  Nat.xor_lt_two_pow (n := 3) h h'

theorem bitPosition_xor (k k' : Nat) {j j' : Nat} (hj : j < 8) (hj' : j' < 8) :
    bitPosition (k ^^^ k') (j ^^^ j') = bitPosition k j ^^^ bitPosition k' j' := by
  rw [bitPosition_eq_append _ (xor_lt_8 hj hj'), bitPosition_eq_append k hj, bitPosition_eq_append k' hj']
  rw [BitVec.xor_append, BitVec.xor_append, BitVec.xor_append]
  simp only [BitVec.ofBool_xor_ofBool, Nat.testBit_xor, BitVec.ofNat_xor]

theorem xor_xor_ne {k j k' j' : Nat} (k'' j'' : Nat) (h : (k, j) ≠ (k', j')) :
    (k ^^^ k' ^^^ k'', j ^^^ j' ^^^ j'') ≠ (k'', j'') := by
  intro he
  have cancel {x y z : Nat} (hz : x ^^^ y ^^^ z = z) : x = y := by
    have zero : x ^^^ y = 0 := Nat.xor_left_injective (x := z) (by simpa using hz)
    exact Nat.xor_eq_zero_iff.mp zero
  obtain ⟨hk, hj⟩ := Prod.mk.inj he
  exact h (Prod.ext (cancel hk) (cancel hj))

/-- Settles O21: three bits have the syndrome of a fourth, which verify inverts. -/
theorem roundTripAndTripleErrors : Obligations.RoundTripAndTripleErrors := by
  refine ⟨fun d => ?_, fun d k1 j1 k2 j2 k3 j3 hk1 hj1 hk2 hj2 hk3 hj3 h12 h13 h23 => ?_⟩
  · obtain ⟨res, data⟩ := eccVerify_of_not_corrected (eccSyndrome_eccGen d) eccDispatch_zero (by decide)
    exact ⟨res, eccSyndrome_eccGen d, data⟩
  · intro e v
    have syn : v.syn = flipSyndrome (k1 ^^^ k2 ^^^ k3) (j1 ^^^ j2 ^^^ j3) := by
      rw [eccVerify_syn, eccSyndrome_flipBit _ _ hk3 hj3, eccSyndrome_flipBit _ _ hk2 hj2,
        eccSyndrome_flipBit_eccGen d hk1 hj1, flipSyndrome_xor_xor]
    have hk : k1 ^^^ k2 ^^^ k3 < 512 := xor_lt_512 (xor_lt_512 hk1 hk2) hk3
    have hj : j1 ^^^ j2 ^^^ j3 < 8 := xor_lt_8 (xor_lt_8 hj1 hj2) hj3
    have position : bitPosition (k1 ^^^ k2 ^^^ k3) (j1 ^^^ j2 ^^^ j3) =
        bitPosition k1 j1 ^^^ bitPosition k2 j2 ^^^ bitPosition k3 j3 := by
      rw [bitPosition_xor _ _ (xor_lt_8 hj1 hj2) hj3, bitPosition_xor _ _ hj1 hj2]
    obtain ⟨res, data⟩ := eccVerify_of_flipSyndrome hk hj syn
    refine ⟨res, _, _, hk, hj, data, position, ?_, ?_, xor_xor_ne k3 j3 h12⟩
    · rw [Nat.xor_assoc, Nat.xor_comm k1, Nat.xor_assoc j1, Nat.xor_comm j1]
      exact xor_xor_ne k1 j1 h23
    · rw [Nat.xor_right_comm, Nat.xor_right_comm j1]
      exact xor_xor_ne k2 j2 h13

/-- The exclusive-or of four indices from one divisible by 4 is 0 (40_ecc.md R165). -/
theorem four_lines_cancel (m : Nat) :
    BitVec.ofNat 9 (4 * m) ^^^ BitVec.ofNat 9 (4 * m + 1) ^^^ BitVec.ofNat 9 (4 * m + 2) ^^^
      BitVec.ofNat 9 (4 * m + 3) = 0#9 := by
  have line (r : Nat) (h : r < 4) : BitVec.ofNat 9 (4 * m + r) = BitVec.ofNat 7 m ++ BitVec.ofNat 2 r :=
    ofNat_mul_add_eq_append (w := 7) (v := 2) m h
  have first : BitVec.ofNat 9 (4 * m) = BitVec.ofNat 7 m ++ BitVec.ofNat 2 0 := line 0 (by decide)
  rw [first, line 1 (by decide), line 2 (by decide), line 3 (by decide), BitVec.xor_append, BitVec.xor_append,
    BitVec.xor_append, BitVec.xor_self, BitVec.zero_xor, BitVec.xor_self]
  rfl

/-- Four equal bytes from an index divisible by 4 cancel in each accumulator (40_ecc.md R165). -/
theorem parityAcc_constant (x : Byte) (m : Nat) : parityAcc (fun _ => x) (4 * m) = { lp := 0#9, lpn := 0#9, c := 0 } := by
  induction m with
  | zero => rfl
  | succ m ih =>
    have four : parityAcc (fun _ => x) (4 * (m + 1)) = parityStep (parityStep (parityStep (parityStep
        (parityAcc (fun _ => x) (4 * m)) (4 * m) x) (4 * m + 1) x) (4 * m + 2) x) (4 * m + 3) x := rfl
    rw [four, ih]
    apply ParityAcc.eq_of_fields
    · simp only [parityStep_lp]
      split
      · rw [BitVec.zero_xor, four_lines_cancel]
      · rfl
    · simp only [parityStep_lpn]
      split
      · rw [BitVec.zero_xor, not_xor_not, BitVec.xor_assoc, not_xor_not, ← BitVec.xor_assoc, four_lines_cancel]
      · rfl
    · simp only [parityStep_c, BitVec.xor_assoc, BitVec.xor_self, BitVec.xor_zero]

theorem eccGen_constant {x : Byte} {d : Nat → Byte} (h : ∀ i < 512, d i = x) : eccGen d = 0x01FFFFFF := by
  have cancel : parityAcc (fun _ => x) 512 = { lp := 0#9, lpn := 0#9, c := 0 } := parityAcc_constant x 128
  rw [eccGen_congr h, eccGen, eccRaw, cancel]
  decide

/-- Settles O22: the code of equal bytes against the two stored codes. -/
theorem erasedAndZeroedParagraphs : Obligations.ErasedAndZeroedParagraphs := by
  refine ⟨fun x d => eccGen_constant, fun d h => ?_, fun d h => ?_⟩
  · have syn : eccSyndrome d 0xFFFFFFFF = 0#25 := by
      rw [eccSyndrome, eccGen_constant h]
      decide
    rw [eccVerify_res, syn, eccDispatch_zero]
  · have syn : eccSyndrome d 0 = 0x1FFFFFF := by
      rw [eccSyndrome, eccGen_constant h]
      decide
    rw [eccVerify_res, eccVerify_syn, syn]
    decide

end Sys2Proof.Machine
end

section
/-! ### ECC_GEN and ECC_VERIFY (40_ecc.md R164 to R167) -/

namespace Sys2Proof.Machine

namespace Device

theorem issue_of_clear {d : Device} (h : d.busy = false) (effect : Device) : d.issue true none effect = effect := by
  simp [issue, h]

theorem issue_of_ownError {d : Device} (h : d.busy = false) (e : ErrBit) (effect : Device) :
    d.issue true (some e) effect = d.raise e := by
  simp [issue, h]

theorem bufOfRole_eq (d : Device) (r : Role) : d.bufOfRole r = if r = .nand then d.sel else !d.sel := by
  cases r <;> rfl

theorem eccOwnError_eq_none {d : Device} {r : Role} (h : r = .rng → d.streamActive = false) :
    d.eccOwnError r = none := by
  cases r with
  | nand => rfl
  | rng => simp [eccOwnError, whileStreaming, h rfl]

theorem eccOwnError_rng {d : Device} (h : d.streamActive = true) : d.eccOwnError .rng = some .bufBusy :=
  if_pos h

/-- A correction changes the one byte its syndrome names (40_ecc.md R169). -/
theorem read_correctBuf (d : Device) (p : Bool) (syn : BitVec 25) (a : Nat) :
    Memory.read .buffers (d.correctBuf p syn).buf a =
      if eccDispatch syn = .corrected ∧ a = bufKey p (synByte syn)
      then d.bufByte p (synByte syn) ^^^ (1#8 <<< synBit syn) else Memory.read .buffers d.buf a := by
  rcases d.correctBuf_cases p syn with ⟨hc, he⟩ | ⟨hc, _, he⟩
  · rw [he, if_neg fun h => hc h.1]
  · rw [he, setBufByte_buf, Memory.read_write]
    simp only [hc, true_and]

@[simp] theorem bufKey_eq_iff (p : Bool) (i k : Nat) : bufKey p i = bufKey p k ↔ i = k := by
  simp [bufKey]

/-- The buffer holds the data that verify returns (40_ecc.md R166). -/
theorem bufByte_correctBuf (d : Device) (p : Bool) (code : Word) (i : Nat) :
    (d.correctBuf p (eccSyndrome (d.bufData p) code)).bufByte p i = (eccVerify (d.bufData p) code).data i := by
  rw [bufByte, read_correctBuf]
  simp only [bufKey_eq_iff]
  by_cases hc : (eccVerify (d.bufData p) code).res = .corrected
  · rw [eccVerify_data_of_corrected hc, flipBit]
    by_cases hi : i = synByte (eccSyndrome (d.bufData p) code)
    · rw [if_pos ⟨hc, hi⟩, if_pos hi, hi]
      rfl
    · rw [if_neg fun h => hi h.2, if_neg hi]
      rfl
  · rw [eccVerify_data_of_ne hc, if_neg fun h => hc h.1]
    rfl

theorem bufData_setBufByte_flip (d : Device) (p : Bool) (k j : Nat) :
    (d.setBufByte p k (d.bufByte p k ^^^ (1#8 <<< j))).bufData p = flipBit (d.bufData p) k j := by
  funext i
  rw [bufData, bufByte_setBufByte]
  simp only [bufKey_eq_iff]
  by_cases h : i = k
  · rw [if_pos h, h, flipBit_same]
    rfl
  · rw [if_neg h, flipBit_other _ j h]
    rfl

/-- Correcting the one inverted bit brings every buffer byte back (40_ecc.md R170). -/
theorem read_correctBuf_flip (d : Device) (p : Bool) {k j : Nat} (hk : k < 512) (hj : j < 8) (a : Nat) :
    Memory.read .buffers ((d.setBufByte p k (d.bufByte p k ^^^ (1#8 <<< j))).correctBuf p (flipSyndrome k j)).buf a =
      Memory.read .buffers d.buf a := by
  rw [read_correctBuf, synByte_flipSyndrome hk, synBit_flipSyndrome k hj, bufByte_setBufByte, if_pos rfl,
    setBufByte_buf, Memory.read_write]
  simp only [eccDispatch_flipSyndrome, true_and]
  by_cases h : a = bufKey p k
  · rw [if_pos h, h, BitVec.xor_assoc, BitVec.xor_self, BitVec.xor_zero]
    rfl
  · rw [if_neg h, if_neg h]

/-- ECC_VERIFY writes the corrected byte and its two results (40_ecc.md R166). -/
theorem eccVerifyEffect_eq_results {d : Device} {r : Role} {p : Bool} (hp : d.bufOfRole r = p) {syn : BitVec 25}
    (hsyn : eccSyndrome (d.bufData p) d.eccCode = syn) :
    d.eccVerifyEffect r =
      { d with buf := (d.correctBuf p syn).buf, eccSyn := syn, eccRes := eccDispatch syn } := by
  subst hp hsyn
  rw [eccVerifyEffect, correctBuf_eq]
  rfl

/-- ECC_VERIFY of data with one bit inverted since its code was made (40_ecc.md R170). -/
theorem eccVerifyEffect_flip {d : Device} {k j : Nat} (hk : k < 512) (hj : j < 8)
    (hc : d.eccCode = eccGen (d.bufData d.sel)) :
    let e := d.setBufByte d.sel k (d.bufByte d.sel k ^^^ (1#8 <<< j))
    e.eccVerifyEffect .nand = { d with
      buf := (e.correctBuf d.sel (flipSyndrome k j)).buf, eccSyn := flipSyndrome k j, eccRes := .corrected } := by
  intro e
  have syn : eccSyndrome (e.bufData d.sel) e.eccCode = flipSyndrome k j := by
    rw [bufData_setBufByte_flip, setBufByte_eccCode, hc, eccSyndrome_flipBit_eccGen _ hk hj]
  have effect := eccVerifyEffect_eq_results (d := e) (r := .nand) (p := d.sel) rfl syn
  rw [eccDispatch_flipSyndrome] at effect
  exact effect

end Device

/-! #### The two commands -/

/-- Not refused, an ECC command has its effect (40_ecc.md R164). -/
theorem Device.issue_ecc {d : Device} {r : Role} (hs : d.seq = .idle) (hr : r = .rng → d.streamActive = false)
    (effect : Device) : d.issue true (d.eccOwnError r) effect = effect := by
  rw [eccOwnError_eq_none hr, issue_of_clear (busy_of_seq_idle hs)]

theorem exec_eccGen {r : Role} {s : State} (hs : s.dev.seq = .idle) (hr : r = .rng → s.dev.streamActive = false) :
    exec (.eccGen r) s = .next (s.withDev (s.dev.eccGenEffect r)) := by
  have arm : exec (.eccGen r) s =
      .next (s.withDev (s.dev.issue true (s.dev.eccOwnError r) (s.dev.eccGenEffect r))) := rfl
  rw [arm, Device.issue_ecc hs hr]

theorem exec_eccVerify {r : Role} {s : State} (hs : s.dev.seq = .idle) (hr : r = .rng → s.dev.streamActive = false) :
    exec (.eccVerify r) s = .next (s.withDev (s.dev.eccVerifyEffect r)) := by
  have arm : exec (.eccVerify r) s =
      .next (s.withDev (s.dev.issue true (s.dev.eccOwnError r) (s.dev.eccVerifyEffect r))) := rfl
  rw [arm, Device.issue_ecc hs hr]

/-- The stream owns the rng buffer (40_ecc.md R164). -/
theorem exec_ecc_streaming {s : State} (hs : s.dev.seq = .idle) (ha : s.dev.streamActive = true) :
    exec (.eccGen .rng) s = .next (s.withErr 0x040) ∧ exec (.eccVerify .rng) s = .next (s.withErr 0x040) := by
  have refuse (effect : Device) : s.dev.issue true (s.dev.eccOwnError .rng) effect = s.dev.raise .bufBusy := by
    rw [Device.eccOwnError_rng ha, Device.issue_of_ownError (Device.busy_of_seq_idle hs)]
  exact ⟨congrArg (fun d => Host.Outcome.next (s.withDev d)) (refuse _),
    congrArg (fun d => Host.Outcome.next (s.withDev d)) (refuse _)⟩

/-- Settles O9: the effect, the bytes the code reads, its width, and the refusal. -/
theorem eccGenWritesTheCode : Obligations.EccGenWritesTheCode := by
  refine ⟨fun r s hs hr => ?_, fun _ _ => eccGen_congr, eccGen_toNat_lt, fun _ => exec_ecc_streaming⟩
  rw [exec_eccGen hs hr, ← Device.bufOfRole_eq]
  rfl

/-- Settles O10: a correction is confined to the byte the syndrome names. -/
theorem eccVerifyReportsAndCorrects : Obligations.EccVerifyReportsAndCorrects := by
  intro r s hs hr p v
  have effect : s.dev.eccVerifyEffect r =
      { s.dev with buf := (s.dev.correctBuf p v.syn).buf, eccSyn := v.syn, eccRes := v.res } :=
    Device.eccVerifyEffect_eq_results (s.dev.bufOfRole_eq r) rfl
  refine ⟨_, by rw [exec_eccVerify hs hr, effect], rfl, fun i _ => ?_, fun a ha => ?_, fun hv => ?_⟩
  · exact s.dev.bufByte_correctBuf p s.dev.eccCode i
  · refine (s.dev.read_correctBuf p v.syn a).trans (if_neg ?_)
    rintro ⟨_, rfl⟩
    have inRange := synByte_lt v.syn
    exact ha (by unfold bufKey; omega)
  · have same : s.dev.correctBuf p v.syn = s.dev := if_neg hv
    exact (congrArg Device.buf same :)

/-! #### A window write between the two (44_register_access.md R318) -/

theorem actAll_cons {a : Action} {s t : State} (h : act a s = .next t) (rest : List Action) :
    actAll (a :: rest) s = actAll rest t := by
  rw [actAll, h]

/-- A CMD write of a command's code executes the command (44_register_access.md R312). -/
theorem act_encode (i : Instr) (s : State) : act (.host (.write32 0x000 (encode i))) s = exec i s :=
  issueCommand_of_ok (decode_encode i) s

theorem targetOf_nandWindow {i : Nat} (h : i < 528) : targetOf (BitVec.ofNat 12 (0x400 + i)) = .nandWindow i := by
  rw [targetOf, BitVec.toNat_ofNat, Nat.mod_eq_of_lt (by omega), targetAt_high (by omega), if_pos (by omega),
    Nat.add_sub_cancel_left]

theorem Device.mmioWrite8_nandWindow {d : Device} (hs : d.seq = .idle) {i : Nat} (hi : i < 528) (v : Byte) :
    d.mmioWrite8 (BitVec.ofNat 12 (0x400 + i)) v = d.setBufByte d.sel i v := by
  simp [mmioWrite8, targetOf_nandWindow hi, legalWrite, writeNand, busy_of_seq_idle hs]

theorem act_nandWindow {s : State} (hs : s.dev.seq = .idle) {i : Nat} (hi : i < 528) (v : Byte) :
    act (.host (.write8 (BitVec.ofNat 12 (0x400 + i)) v)) s = .next (s.withDev (s.dev.setBufByte s.dev.sel i v)) := by
  rw [← Device.mmioWrite8_nandWindow hs hi]
  rfl

theorem act_eccGen_nand {s : State} (hs : s.dev.seq = .idle) :
    act (.host (.write32 0x000 0x01000000)) s = .next (s.withDev (s.dev.eccGenEffect .nand)) :=
  (act_encode (.eccGen .nand) s).trans (exec_eccGen hs nofun)

theorem act_eccVerify_nand {s : State} (hs : s.dev.seq = .idle) :
    act (.host (.write32 0x000 0x02000000)) s = .next (s.withDev (s.dev.eccVerifyEffect .nand)) :=
  (act_encode (.eccVerify .nand) s).trans (exec_eccVerify hs nofun)

/-- ECC_GEN, a window write, ECC_VERIFY: each has its effect (40_ecc.md R165, R166). -/
theorem actAll_gen_write_verify {s : State} (hs : s.dev.seq = .idle) {i : Nat} (hi : i < 528) (v : Byte) :
    actAll [.host (.write32 0x000 0x01000000), .host (.write8 (BitVec.ofNat 12 (0x400 + i)) v),
      .host (.write32 0x000 0x02000000)] s =
      .next (s.withDev (((s.dev.eccGenEffect .nand).setBufByte s.dev.sel i v).eccVerifyEffect .nand)) := by
  have gen := act_eccGen_nand hs
  have write := act_nandWindow (s := s.withDev (s.dev.eccGenEffect .nand)) hs hi v
  have verify := act_eccVerify_nand (s := s.withDev ((s.dev.eccGenEffect .nand).setBufByte s.dev.sel i v)) hs
  rw [actAll_cons gen, actAll_cons write]
  exact actAll_cons verify []

/-- Settles O24: the window write inverts a data bit, and verify inverts it again. -/
theorem genFlipVerifyRestores : Obligations.GenFlipVerifyRestores := by
  intro s k j hk hj hs v
  have run := actAll_gen_write_verify hs (show k < 528 by omega) v
  have effect := Device.eccVerifyEffect_flip (d := s.dev.eccGenEffect .nand) hk hj rfl
  dsimp only at effect
  refine ⟨_, run.trans (congrArg (fun d => Host.Outcome.next (s.withDev d)) effect), rfl, ?_⟩
  exact (s.dev.eccGenEffect .nand).read_correctBuf_flip s.dev.sel hk hj

end Sys2Proof.Machine
end

section
/-! ### RNG_START, RNG_BITS_START and BUF_SWAP (41_rng.md R194 to R200) -/

namespace Sys2Proof.Machine

/-- A command in range that a stream refuses, on an idle device (41_rng.md R195, R200). -/
theorem Device.issue_whileStreaming {d : Device} (hs : d.seq = .idle) (e : ErrBit) (effect : Device) :
    d.issue true (d.whileStreaming e) effect = if d.streamActive then d.raise e else effect := by
  have free := busy_of_seq_idle hs
  unfold whileStreaming
  split
  · exact issue_of_ownError free e effect
  · exact issue_of_clear free effect

theorem exec_rngStart {s : State} (hs : s.dev.seq = .idle) :
    exec .rngStart s =
      .next (s.withDev (if s.dev.streamActive then s.dev.raise .rngBusy else s.dev.startCycle)) := by
  rw [← Device.issue_whileStreaming hs]
  rfl

theorem exec_rngBitsStart {s : State} (hs : s.dev.seq = .idle) {off len : BitVec 10}
    (hr : off.toNat + len.toNat ≤ 528) :
    exec (.rngBitsStart off len) s =
      .next (s.withDev (if s.dev.streamActive then s.dev.raise .rngBusy else s.dev.bitsStartEffect off len)) := by
  have range : s.dev.inRange (.rngBitsStart off len) = true := decide_eq_true hr
  rw [← Device.issue_whileStreaming hs, ← range]
  rfl

theorem exec_bufSwap {s : State} (hs : s.dev.seq = .idle) :
    exec .bufSwap s =
      .next (s.withDev (if s.dev.streamActive then s.dev.raise .swapBusy else s.dev.swapBuffers)) := by
  rw [← Device.issue_whileStreaming hs]
  rfl

@[simp] theorem Device.swapBuffers_swapBuffers (d : Device) : d.swapBuffers.swapBuffers = d := by
  simp [swapBuffers]

/-- After a swap each window shows what the other did (41_rng.md R199). -/
theorem Device.readTarget_swapBuffers (d : Device) (i : Nat) :
    d.swapBuffers.readTarget (.nandWindow i) = d.readTarget (.rngWindow i) ∧
    d.swapBuffers.readTarget (.rngWindow i) = d.readTarget (.nandWindow i) := by
  have back := congrArg (fun e : Device => e.readTarget (.nandWindow i)) d.swapBuffers_swapBuffers
  exact ⟨rfl, back⟩

/-- Settles O11: the sampler is armed, or the stream refuses. -/
theorem rngStartArmsTheSampler : Obligations.RngStartArmsTheSampler := by
  refine fun s hs => ⟨fun quiet => ?_, fun streaming => ⟨?_, fun off len hr => ?_⟩⟩
  · rw [exec_rngStart hs, quiet]
    rfl
  · rw [exec_rngStart hs, streaming]
    rfl
  · rw [exec_rngBitsStart hs hr, streaming]
    rfl

/-- Settles O12: the two cases of the effect. -/
theorem rngBitsStartBeginsTheStream : Obligations.RngBitsStartBeginsTheStream := by
  intro off len s hs quiet hr
  rw [exec_rngBitsStart hs hr, quiet, if_neg Bool.false_ne_true, Device.bitsStartEffect]
  split <;> rfl

/-- Settles O13: a swap, the swap back, and the refusal. -/
theorem bufSwapExchangesTheRoles : Obligations.BufSwapExchangesTheRoles := by
  refine fun s hs => ⟨fun quiet => ?_, fun streaming => ?_⟩
  · have swap : exec .bufSwap s = .next (s.withDev s.dev.swapBuffers) := by
      rw [exec_bufSwap hs, quiet]
      rfl
    refine ⟨swap, fun t ht => ?_⟩
    obtain rfl : s.withDev s.dev.swapBuffers = t := Host.Outcome.next.inj (swap.symm.trans ht)
    refine ⟨s.dev.readTarget_swapBuffers, ?_⟩
    have back : exec .bufSwap (s.withDev s.dev.swapBuffers) = .next (s.withDev s.dev.swapBuffers.swapBuffers) := by
      rw [exec_bufSwap (s := s.withDev s.dev.swapBuffers) hs]
      simp [quiet, State.withDev]
    rw [back, Device.swapBuffers_swapBuffers]
    rfl
  · rw [exec_bufSwap hs, streaming]
    rfl

end Sys2Proof.Machine
end

section
/-! ### One sample and the end of a cycle (41_rng.md R190 to R192) -/

namespace Sys2Proof.Machine

namespace Device

/-! #### The accumulators and their bytes -/

theorem accWord_eq_getElem (d : Device) {k : Nat} (hk : k < 8) : d.accWord k = d.acc[k] := by
  simp [accWord, hk]

theorem acc_eq_of_accWord {d e : Device} (h : ∀ k < 8, e.accWord k = d.accWord k) : e.acc = d.acc := by
  apply Vector.ext
  intro k hk
  rw [← accWord_eq_getElem e hk, ← accWord_eq_getElem d hk, h k hk]

theorem accWord_setAcc (d : Device) (k : Nat) (v : Half) {j : Nat} (hj : j < 8) :
    (d.setAcc k v).accWord j = if j = k then v else d.accWord j := by
  rw [accWord_eq_getElem _ hj, accWord_eq_getElem _ hj, setAcc_acc, Vector.getElem_setIfInBounds]
  simp only [eq_comm]

end Device

theorem accBytes_eq_map (d : Device) :
    accBytes d = (List.range 16).map fun m =>
      if m % 2 = 0 then (d.accWord (m / 2)).extractLsb' 0 8 else (d.accWord (m / 2)).extractLsb' 8 8 :=
  rfl

@[simp] theorem accBytes_length (d : Device) : (accBytes d).length = 16 := rfl

/-- Byte `m` of Ser(ACC) (41_rng.md R192). -/
theorem getD_accBytes (d : Device) {m : Nat} (h : m < 16) :
    (accBytes d).getD m 0 =
      if m % 2 = 0 then (d.accWord (m / 2)).extractLsb' 0 8 else (d.accWord (m / 2)).extractLsb' 8 8 := by
  simp [accBytes_eq_map, List.getD_eq_getElem?_getD, h]

namespace Device

/-! #### The end of a cycle -/

theorem cycleEnd_of_quiet {d : Device} (h : d.streamActive = false) :
    d.cycleEnd = { d with scount := 0, rngArmed := false, rngDone := true } := by
  simp [cycleEnd, h]

theorem cycleEnd_of_stream {d : Device} (h : d.streamActive = true) :
    d.cycleEnd = { d with
      buf := (d.setBufBytes (!d.sel) d.soff ((accBytes d).take (min 16 d.srem))).buf, scount := 0,
      soff := d.soff + min 16 d.srem, srem := d.srem - min 16 d.srem,
      streamActive := decide (min 16 d.srem < d.srem),
      rngArmed := if min 16 d.srem < d.srem then d.rngArmed else false,
      rngDone := if min 16 d.srem < d.srem then d.rngDone else true } := by
  rw [cycleEnd, if_pos h]
  by_cases more : min 16 d.srem < d.srem
  · simp only [Nat.sub_pos_iff_lt, more, if_true, decide_true, ← h]
    rfl
  · simp only [Nat.sub_pos_iff_lt, more, if_false, decide_false]
    rfl

/-- The end of a cycle leaves the accumulators (41_rng.md R191). -/
@[simp] theorem cycleEnd_acc (d : Device) : d.cycleEnd.acc = d.acc := by
  rw [cycleEnd_eq]

/-- The bytes a stream's cycle delivers (41_rng.md R191, R192). -/
theorem read_cycleEnd {d : Device} (h : d.streamActive = true) (a : Nat) :
    Memory.read .buffers d.cycleEnd.buf a =
      if bufKey (!d.sel) d.soff ≤ a ∧ a < bufKey (!d.sel) (d.soff + min 16 d.srem)
      then (accBytes d).getD (a - bufKey (!d.sel) d.soff) 0 else Memory.read .buffers d.buf a := by
  have length : ((accBytes d).take (min 16 d.srem)).length = min 16 d.srem := by simp
  have key : bufKey (!d.sel) (d.soff + min 16 d.srem) = bufKey (!d.sel) d.soff + min 16 d.srem :=
    (Nat.add_assoc _ _ _).symm
  rw [cycleEnd_of_stream h, setBufBytes_buf, Memory.read_writeBytes, length, key]
  split
  · next inside =>
    have taken : a - bufKey (!d.sel) d.soff < min 16 d.srem := by omega
    rw [List.getD_eq_getElem?_getD, List.getElem?_take_of_lt taken, ← List.getD_eq_getElem?_getD]
  · rfl

theorem read_cycleEnd_delivered {d : Device} (h : d.streamActive = true) {m : Nat} (hm : m < min 16 d.srem) :
    Memory.read .buffers d.cycleEnd.buf (bufKey (!d.sel) (d.soff + m)) = (accBytes d).getD m 0 := by
  have offset : bufKey (!d.sel) (d.soff + m) - bufKey (!d.sel) d.soff = m := by unfold bufKey; omega
  rw [read_cycleEnd h, if_pos (by unfold bufKey; omega), offset]

/-! #### One sample -/

/-- The device with one sample mixed in and counted, before the end of the cycle is looked at (41_rng.md R190). -/
def mix (d : Device) (x : Half) : Device :=
  { d.setAcc (d.scount % 8) (rotl16 (d.accWord (d.scount % 8)) 1 ^^^ x) with scount := d.scount + 1 }

theorem adcStep_of_idle {d : Device} (h : d.rngArmed = false) (x : Half) : d.adcStep x = d := by
  simp [adcStep, h]

theorem adcStep_of_armed {d : Device} (h : d.rngArmed = true) (x : Half) :
    d.adcStep x = if d.scount + 1 = d.params.nSamples then (d.mix x).cycleEnd else d.mix x :=
  if_pos h

theorem mix_eq (d : Device) (x : Half) : d.mix x = { d with acc := (d.mix x).acc, scount := d.scount + 1 } := rfl

theorem accWord_mix (d : Device) (x : Half) {k : Nat} (hk : k < 8) :
    (d.mix x).accWord k = if k = d.scount % 8 then rotl16 (d.accWord k) 1 ^^^ x else d.accWord k := by
  refine (d.accWord_setAcc _ _ hk).trans ?_
  split
  · next here => rw [here]
  · rfl

end Device

/-- Settles O25: a sample by whether the sampler is armed, a cycle's end by whether a stream is active. -/
theorem adcSampleMixesAndDelivers : Obligations.AdcSampleMixesAndDelivers := by
  refine ⟨fun s x => ⟨fun idle => ?_, fun armed => ?_⟩, fun d => ⟨Device.cycleEnd_of_quiet, fun streaming => ?_⟩⟩
  · rw [act, Device.adcStep_of_idle idle]
    rfl
  · refine ⟨s.dev.mix x, s.dev.mix_eq x, fun k hk => s.dev.accWord_mix x hk, ?_⟩
    rw [act, Device.adcStep_of_armed armed]
    split <;> rfl
  · intro n
    refine ⟨?_, fun m hm => ?_, fun a ha => ?_⟩
    · rw [Device.cycleEnd_of_stream streaming]
    · rw [Device.read_cycleEnd_delivered streaming hm, getD_accBytes d (by omega)]
    · rw [Device.read_cycleEnd streaming, if_neg ha]

end Sys2Proof.Machine
end

section
/-! ### The samples of one cycle (41_rng.md R190, R193) -/

namespace Sys2Proof.Machine

namespace Device

/-- Samples mixed in and counted, without the end of a cycle. -/
def mixAll (d : Device) (xs : List Half) : Device := xs.foldl mix d

theorem mixAll_cons (d : Device) (x : Half) (xs : List Half) : d.mixAll (x :: xs) = (d.mix x).mixAll xs := rfl

theorem mixAll_append (d : Device) (xs ys : List Half) : d.mixAll (xs ++ ys) = (d.mixAll xs).mixAll ys :=
  List.foldl_append

theorem adcAll_cons (d : Device) (x : Half) (xs : List Half) : d.adcAll (x :: xs) = (d.adcStep x).adcAll xs := rfl

theorem adcAll_append (d : Device) (xs ys : List Half) : d.adcAll (xs ++ ys) = (d.adcAll xs).adcAll ys :=
  List.foldl_append

theorem mixAll_eq (d : Device) (xs : List Half) :
    d.mixAll xs = { d with acc := (d.mixAll xs).acc, scount := d.scount + xs.length } := by
  induction xs generalizing d with
  | nil => rfl
  | cons x xs ih =>
    rw [mixAll_cons, ih, mix_eq, List.length_cons, Nat.add_comm xs.length, ← Nat.add_assoc]

@[simp] theorem mix_params (d : Device) (x : Half) : (d.mix x).params = d.params := rfl
@[simp] theorem mix_scount (d : Device) (x : Half) : (d.mix x).scount = d.scount + 1 := rfl

@[simp] theorem mixAll_params (d : Device) (xs : List Half) : (d.mixAll xs).params = d.params := by
  rw [mixAll_eq]

@[simp] theorem mixAll_scount (d : Device) (xs : List Half) : (d.mixAll xs).scount = d.scount + xs.length := by
  rw [mixAll_eq]

@[simp] theorem mixAll_rngArmed (d : Device) (xs : List Half) : (d.mixAll xs).rngArmed = d.rngArmed := by
  rw [mixAll_eq]

theorem adcAll_params (d : Device) (xs : List Half) : (d.adcAll xs).params = d.params := by
  induction xs generalizing d with
  | nil => rfl
  | cons x xs ih => rw [adcAll_cons, ih, adcStep_eq]

/-- Before the last sample of a cycle samples are only mixed in (41_rng.md R190). -/
theorem adcAll_of_lt {d : Device} (ha : d.rngArmed = true) {xs : List Half}
    (h : d.scount + xs.length < d.params.nSamples) : d.adcAll xs = d.mixAll xs := by
  induction xs generalizing d with
  | nil => rfl
  | cons x xs ih =>
    rw [List.length_cons] at h
    rw [adcAll_cons, adcStep_of_armed ha, if_neg (by omega), mixAll_cons]
    exact ih ha (by rw [mix_scount, mix_params]; omega)

/-- The samples of a cycle are mixed in and the last ends it (41_rng.md R190, R191). -/
theorem adcAll_cycle {d : Device} (ha : d.rngArmed = true) {xs : List Half} (hx : xs ≠ [])
    (h : d.scount + xs.length = d.params.nSamples) : d.adcAll xs = (d.mixAll xs).cycleEnd := by
  obtain ⟨ys, x, rfl⟩ := (List.eq_nil_or_concat' xs).resolve_left hx
  rw [List.length_append, List.length_singleton] at h
  have ends : (d.mixAll ys).scount + 1 = (d.mixAll ys).params.nSamples := by
    rw [mixAll_scount, mixAll_params, Nat.add_assoc, h]
  have armed : (d.mixAll ys).rngArmed = true := by rw [mixAll_rngArmed, ha]
  rw [adcAll_append, adcAll_of_lt ha (by omega), mixAll_append, adcAll_cons, adcStep_of_armed armed, if_pos ends]
  rfl

end Device

/-! #### The samples of one word -/

/-- A word `a` after the samples `f 0`, …, `f (c - 1)` (41_rng.md R190). -/
def mixWord (f : Nat → Half) (a : Half) : Nat → Half
  | 0 => a
  | c + 1 => rotl16 (mixWord f a c) 1 ^^^ f c

/-- Of `n` samples of a cycle word `k` has received every eighth from the `k`-th on (41_rng.md R193). -/
theorem Device.accWord_mixAll_take {d : Device} (h0 : d.scount = 0) {xs : List Half} {k : Nat} (hk : k < 8) {n : Nat}
    (hn : n ≤ xs.length) :
    (d.mixAll (xs.take n)).accWord k = mixWord (fun m => xs.getD (8 * m + k) 0) (d.accWord k) ((n + 7 - k) / 8) := by
  induction n with
  | zero =>
    have before : (0 + 7 - k) / 8 = 0 := by omega
    rw [before]
    rfl
  | succ n ih =>
    have count : (d.mixAll (xs.take n)).scount = n := by
      rw [mixAll_scount, h0, List.length_take]
      omega
    have last : d.mixAll (xs.take (n + 1)) = (d.mixAll (xs.take n)).mix (xs.getD n 0) := by
      rw [List.take_succ_eq_append_getElem hn, mixAll_append, List.getD_eq_getElem _ _ hn]
      rfl
    rw [last, accWord_mix _ _ hk, count, ih (by omega)]
    split
    · next turn =>
      have received : (n + 1 + 7 - k) / 8 = (n + 7 - k) / 8 + 1 := by omega
      have index : 8 * ((n + 7 - k) / 8) + k = n := by omega
      rw [received, mixWord, index]
    · next other =>
      have same : (n + 1 + 7 - k) / 8 = (n + 7 - k) / 8 := by omega
      rw [same]

/-! #### The closed form -/

/-- Bit `i` of a word rotated left by `r` (00_scope.md R11). -/
theorem getLsbD_rotl16 (v : Half) {r i : Nat} (hr : r ≤ 16) (hi : i < 16) :
    (rotl16 v r).getLsbD i = v.getLsbD (if i < r then 16 - r + i else i - r) := by
  rw [rotl16, BitVec.getLsbD_or, BitVec.getLsbD_shiftLeft, BitVec.getLsbD_ushiftRight]
  split
  · next low => simp [low]
  · next high =>
    have beyond : v.getLsbD (16 - r + i) = false := BitVec.getLsbD_of_ge _ _ (by omega)
    simp [high, hi, beyond]

theorem rotl16_zero (v : Half) : rotl16 v 0 = v :=
  BitVec.eq_of_getLsbD_eq fun _ hi => getLsbD_rotl16 v (Nat.zero_le 16) hi

theorem rotl16_xor (v w : Half) {r : Nat} (hr : r ≤ 16) : rotl16 (v ^^^ w) r = rotl16 v r ^^^ rotl16 w r := by
  apply BitVec.eq_of_getLsbD_eq
  intro i hi
  simp only [BitVec.getLsbD_xor, getLsbD_rotl16 _ hr hi]

theorem rotl16_one_mod (v : Half) (r : Nat) : rotl16 (rotl16 v (r % 16)) 1 = rotl16 v ((r + 1) % 16) := by
  apply BitVec.eq_of_getLsbD_eq
  intro i hi
  have inRange : (if i < 1 then 16 - 1 + i else i - 1) < 16 := by split <;> omega
  rw [getLsbD_rotl16 _ (by decide) hi, getLsbD_rotl16 _ (by omega) inRange, getLsbD_rotl16 _ (by omega) hi]
  congr 1
  split_ifs <;> omega

/-- The closed form of a word's samples (41_rng.md R193). -/
theorem mixWord_eq (f : Nat → Half) (a : Half) (c : Nat) :
    mixWord f a c =
      rotl16 a (c % 16) ^^^ (List.range c).foldl (fun b m => b ^^^ rotl16 (f m) ((c - 1 - m) % 16)) 0 := by
  induction c with
  | zero => exact (rotl16_zero a).symm.trans (BitVec.xor_zero).symm
  | succ c ih =>
    have rotated : rotl16 ((List.range c).foldl (fun b m => b ^^^ rotl16 (f m) ((c - 1 - m) % 16)) 0) 1 =
        (List.range c).foldl (fun b m => b ^^^ rotl16 (f m) ((c - m) % 16)) 0 := by
      rw [← List.foldl_hom (fun b => rotl16 b 1) (g₂ := fun b m => b ^^^ rotl16 (rotl16 (f m) ((c - 1 - m) % 16)) 1)
        fun b m => (rotl16_xor _ _ (by decide)).symm]
      refine List.foldl_ext _ _ _ fun b m hm => ?_
      have next : c - 1 - m + 1 = c - m := by have := List.mem_range.mp hm; omega
      rw [rotl16_one_mod, next]
    rw [mixWord, ih, rotl16_xor _ _ (by decide), rotl16_one_mod, rotated, List.range_succ, List.foldl_append,
      BitVec.xor_assoc]
    simp [rotl16_zero]

/-- A cycle leaves in each word the samples it has received (41_rng.md R193). -/
theorem Device.accWord_adcAll_cycle {d : Device} (ha : d.rngArmed = true) (h0 : d.scount = 0) {xs : List Half}
    (hx : xs ≠ []) (hl : xs.length = d.params.nSamples) {k : Nat} (hk : k < 8) :
    (d.adcAll xs).accWord k =
      mixWord (fun m => xs.getD (8 * m + k) 0) (d.accWord k) ((d.params.nSamples + 7 - k) / 8) := by
  have words := accWord_mixAll_take h0 hk (le_refl xs.length)
  rw [List.take_length] at words
  rw [adcAll_cycle ha hx (by omega), accWord, cycleEnd_acc, ← hl]
  exact words

/-- The same samples into a word twice cancel when there are 16 (41_rng.md R193). -/
theorem mixWord_mixWord_sixteen (f : Nat → Half) (a : Half) : mixWord f (mixWord f a 16) 16 = a := by
  rw [mixWord_eq, mixWord_eq f a, Nat.mod_self, rotl16_zero, rotl16_zero, BitVec.xor_assoc, BitVec.xor_self,
    BitVec.xor_zero]

/-- Settles O26: each word has the closed form of its samples; at 128 samples each word receives 16. -/
theorem cycleClosedForm : Obligations.CycleClosedForm := by
  refine ⟨fun d xs legal armed h0 hl k hk => ?_, fun d xs samples armed h0 quiet hl => ?_⟩
  · intro c
    have many : 128 ≤ d.params.nSamples := by
      simp only [Params.legal, Bool.and_eq_true, decide_eq_true_eq] at legal
      omega
    have received : (d.params.nSamples + 7 - k) / 8 = c := by omega
    have nonempty : xs ≠ [] := List.ne_nil_of_length_pos (by omega)
    rw [Device.accWord_adcAll_cycle armed h0 nonempty hl hk, mixWord_eq, received]
  · have nonempty : xs ≠ [] := List.ne_nil_of_length_pos (by omega)
    have params : (d.adcAll xs).startCycle.params = d.params := by
      rw [Device.startCycle_params, Device.adcAll_params]
    refine Device.acc_eq_of_accWord fun k hk => ?_
    have received : (d.params.nSamples + 7 - k) / 8 = 16 := by omega
    have again := Device.accWord_adcAll_cycle (d := (d.adcAll xs).startCycle) rfl rfl nonempty
      (by rw [params, samples, hl]) hk
    have before : (d.adcAll xs).startCycle.accWord k = (d.adcAll xs).accWord k := rfl
    rw [again, before, params, Device.accWord_adcAll_cycle armed h0 nonempty (by omega) hk, received,
      mixWord_mixWord_sixteen]

end Sys2Proof.Machine
end

section
/-! ### A stream over its cycles (41_rng.md R191, R192) -/

namespace Sys2Proof.Machine

namespace Device

/-- `e` is the streaming device `d` between two cycles, when `n` bytes of the stream have been delivered. -/
structure Delivered (d e : Device) (n : Nat) : Prop where
  state : e = { d with
    acc := e.acc, buf := e.buf, scount := 0, soff := d.soff + n, srem := d.srem - n,
    streamActive := decide (n < d.srem), rngArmed := decide (n < d.srem),
    rngDone := if n < d.srem then d.rngDone else true }
  frame : ∀ a, ¬ (bufKey (!d.sel) d.soff ≤ a ∧ a < bufKey (!d.sel) (d.soff + n)) →
    Memory.read .buffers e.buf a = Memory.read .buffers d.buf a

theorem delivered_zero {d : Device} (hs : d.streamActive = true) (ha : d.rngArmed = true) (h0 : d.scount = 0)
    (hr : 0 < d.srem) : d.Delivered d 0 where
  state := by
    cases d
    dsimp only at hs ha h0 hr
    subst hs ha h0
    simp [hr]
  frame _ _ := rfl

namespace Delivered

variable {d e : Device} {n : Nat} {xs : List Half}

/-- Within a cycle the stream goes on: the samples change the accumulators and the count alone (41_rng.md R190). -/
theorem mixAll_eq_stream (h : d.Delivered e n) (hn : n < d.srem) (xs : List Half) :
    e.mixAll xs = { d with
      acc := (e.mixAll xs).acc, buf := e.buf, scount := xs.length, soff := d.soff + n, srem := d.srem - n,
      streamActive := true, rngArmed := true } := by
  rw [mixAll_eq]
  generalize (e.mixAll xs).acc = acc
  rw [h.state]
  simp [hn]

theorem rngArmed (h : d.Delivered e n) (hn : n < d.srem) : e.rngArmed = true :=
  congrArg Device.rngArmed (h.mixAll_eq_stream hn [])

theorem scount (h : d.Delivered e n) : e.scount = 0 := by
  rw [h.state]

theorem params (h : d.Delivered e n) : e.params = d.params := by
  rw [h.state]

theorem active_within_cycle (h : d.Delivered e n) (hn : n < d.srem) (hl : xs.length < d.params.nSamples) :
    (e.adcAll xs).streamActive = true ∧ (e.adcAll xs).rngArmed = true := by
  rw [adcAll_of_lt (h.rngArmed hn) (by rwa [h.scount, Nat.zero_add, h.params]), h.mixAll_eq_stream hn]
  exact ⟨rfl, rfl⟩

section
variable (h : d.Delivered e n) (hn : n < d.srem) (hx : xs ≠ []) (hl : xs.length = d.params.nSamples)
include h hn hx hl

theorem adcAll_eq_cycleEnd : e.adcAll xs = (e.mixAll xs).cycleEnd :=
  adcAll_cycle (h.rngArmed hn) hx (by rw [h.scount, Nat.zero_add, h.params, hl])

/-- The next bytes of the stream, and no other, are those of Ser(ACC) (41_rng.md R192). -/
theorem read_adcAll (a : Nat) :
    Memory.read .buffers (e.adcAll xs).buf a =
      if bufKey (!d.sel) (d.soff + n) ≤ a ∧ a < bufKey (!d.sel) (d.soff + n + min 16 (d.srem - n))
      then (accBytes (e.adcAll xs)).getD (a - bufKey (!d.sel) (d.soff + n)) 0 else Memory.read .buffers e.buf a := by
  have mixed := h.mixAll_eq_stream hn xs
  have ser : accBytes (e.adcAll xs) = accBytes (e.mixAll xs) := by
    rw [h.adcAll_eq_cycleEnd hn hx hl]
    simp only [accBytes, accWord, cycleEnd_acc]
  have streaming : (e.mixAll xs).streamActive = true := by rw [mixed]
  rw [ser, h.adcAll_eq_cycleEnd hn hx hl, read_cycleEnd streaming]
  generalize e.mixAll xs = m at mixed
  rw [mixed]

/-- One more cycle delivers the next bytes, at most 16 (41_rng.md R191). -/
theorem cycle : d.Delivered (e.adcAll xs) (n + min 16 (d.srem - n)) where
  state := by
    have mixed := h.mixAll_eq_stream hn xs
    have streaming : (e.mixAll xs).streamActive = true := by rw [mixed]
    rw [h.adcAll_eq_cycleEnd hn hx hl, cycleEnd_of_stream streaming]
    generalize e.mixAll xs = m at mixed
    rw [mixed]
    have last : min 16 (d.srem - n) < d.srem - n ↔ n + min 16 (d.srem - n) < d.srem := by omega
    simp only [last, Nat.add_assoc, Nat.sub_sub]
    by_cases more : n + min 16 (d.srem - n) < d.srem
    · simp only [more, if_true, decide_true]
    · simp only [more, if_false, decide_false]
  frame a ha := by
    unfold bufKey at ha
    rw [h.read_adcAll hn hx hl, if_neg (by unfold bufKey; omega)]
    exact h.frame a (by unfold bufKey; omega)

end

end Delivered

/-- The device when the samples of `c` cycles have been taken. -/
def afterCycles (d : Device) (xs : List Half) (c : Nat) : Device := d.adcAll (xs.take (c * d.params.nSamples))

theorem afterCycles_zero (d : Device) (xs : List Half) : d.afterCycles xs 0 = d := by
  rw [afterCycles, Nat.zero_mul, List.take_zero]
  rfl

/-- The samples after those of `c` cycles are taken from where these leave the device. -/
theorem adcAll_take_afterCycles (d : Device) (xs : List Half) (c r : Nat) :
    d.adcAll (xs.take (c * d.params.nSamples + r)) =
      (d.afterCycles xs c).adcAll ((xs.drop (c * d.params.nSamples)).take r) := by
  rw [List.take_add, adcAll_append, afterCycles]

theorem afterCycles_succ (d : Device) (xs : List Half) (c : Nat) :
    d.afterCycles xs (c + 1) =
      (d.afterCycles xs c).adcAll ((xs.drop (c * d.params.nSamples)).take d.params.nSamples) := by
  rw [← adcAll_take_afterCycles, ← Nat.succ_mul, afterCycles]

section
variable {d : Device} {xs : List Half} {c : Nat}
variable (hs : d.streamActive = true) (ha : d.rngArmed = true) (h0 : d.scount = 0) (hr : 0 < d.srem)
  (hN : 0 < d.params.nSamples)
include hs ha h0 hr hN

/-- After `c` cycles of a stream `16 c` bytes have been delivered, or all; byte `i` is from the end of cycle `i / 16`
(41_rng.md R191, R192). -/
theorem delivered_afterCycles (hc : c ≤ (d.srem + 15) / 16) (hl : c * d.params.nSamples ≤ xs.length) :
    d.Delivered (d.afterCycles xs c) (min (16 * c) d.srem) ∧
    ∀ i < min (16 * c) d.srem, (d.afterCycles xs c).bufByte (!d.sel) (d.soff + i) =
      (accBytes (d.afterCycles xs (i / 16 + 1))).getD (i % 16) 0 := by
  induction c with
  | zero =>
    rw [afterCycles_zero, Nat.mul_zero, Nat.zero_min]
    exact ⟨delivered_zero hs ha h0 hr, nofun⟩
  | succ c ih =>
    rw [Nat.succ_mul] at hl
    obtain ⟨delivered, bytes⟩ := ih (by omega) (by omega)
    have sofar : min (16 * c) d.srem = 16 * c := by omega
    rw [sofar] at delivered bytes
    have more : 16 * c < d.srem := by omega
    have now : min (16 * (c + 1)) d.srem = 16 * c + min 16 (d.srem - 16 * c) := by omega
    have length : ((xs.drop (c * d.params.nSamples)).take d.params.nSamples).length = d.params.nSamples := by
      rw [List.length_take, List.length_drop]
      omega
    have nonempty := List.ne_nil_of_length_pos (hN.trans_eq length.symm)
    have read := delivered.read_adcAll more nonempty length
    rw [afterCycles_succ, now]
    refine ⟨delivered.cycle more nonempty length, fun i hi => ?_⟩
    refine (read _).trans ?_
    by_cases old : i < 16 * c
    · rw [if_neg (by unfold bufKey; omega)]
      exact bytes i old
    · have cycle : i / 16 = c := by omega
      have offset : bufKey (!d.sel) (d.soff + i) - bufKey (!d.sel) (d.soff + 16 * c) = i % 16 := by
        unfold bufKey
        omega
      rw [if_pos (by unfold bufKey; omega), offset, cycle, afterCycles_succ]

/-- Before the last of its samples a stream goes on (41_rng.md R191). -/
theorem active_before_last (hl : xs.length = (d.srem + 15) / 16 * d.params.nSamples) {n : Nat} (hn : n < xs.length) :
    (d.adcAll (xs.take n)).streamActive = true ∧ (d.adcAll (xs.take n)).rngArmed = true := by
  have cycles : n / d.params.nSamples < (d.srem + 15) / 16 := (Nat.div_lt_iff_lt_mul hN).mpr (by omega)
  have taken : n / d.params.nSamples * d.params.nSamples ≤ n := Nat.div_mul_le_self _ _
  have rest : n % d.params.nSamples < d.params.nSamples := Nat.mod_lt _ hN
  obtain ⟨delivered, _⟩ := delivered_afterCycles hs ha h0 hr hN (xs := xs) (by omega) (taken.trans hn.le)
  rw [← Nat.div_add_mod' n d.params.nSamples, adcAll_take_afterCycles]
  exact delivered.active_within_cycle (by omega) ((List.length_take_le _ _).trans_lt rest)

end

end Device

/-- Settles O27: by the cycles that have ended, each of which delivers the next 16 bytes or the rest. -/
theorem streamTakesItsCycles : Obligations.StreamTakesItsCycles := by
  intro d xs legal streaming armed h0 more _ hl
  have samples : 0 < d.params.nSamples := by
    simp only [Params.legal, Bool.and_eq_true, decide_eq_true_eq] at legal
    omega
  refine ⟨fun n => Device.active_before_last streaming armed h0 more samples hl, ?_⟩
  intro e
  have all : d.afterCycles xs ((d.srem + 15) / 16) = e := by rw [Device.afterCycles, ← hl, List.take_length]
  obtain ⟨delivered, bytes⟩ := Device.delivered_afterCycles streaming armed h0 more samples (le_refl _) hl.ge
  have bytesAll : min (16 * ((d.srem + 15) / 16)) d.srem = d.srem := by omega
  rw [all, bytesAll] at delivered
  rw [all, bytesAll] at bytes
  refine ⟨?_, bytes, delivered.frame⟩
  have state := delivered.state
  simp only [Nat.lt_irrefl, decide_false, if_false, Nat.sub_self] at state
  exact state

end Sys2Proof.Machine
end

section
/-! ### TWIN_NEGOTIATE and the steps of a round (42_twin_negotiation.md R230 to R240) -/

namespace Sys2Proof.Machine

/-! #### The command and the TIMER -/

theorem exec_twinNegotiate {s : State} (hs : s.dev.seq = .idle) (force : Bool) :
    exec (.twinNegotiate force) s =
      .next (s.withDev (if s.dev.streamActive then s.dev.raise .rngBusy else s.dev.negotiateEffect force)) := by
  rw [← Device.issue_whileStreaming hs]
  rfl

theorem exec_twinNegotiate_quiet {s : State} (hs : s.dev.seq = .idle) (quiet : s.dev.streamActive = false)
    (force : Bool) : exec (.twinNegotiate force) s = .next (s.withDev (s.dev.negotiateEffect force)) := by
  rw [exec_twinNegotiate hs, quiet, if_neg Bool.false_ne_true]

/-- Settles O14: the effect up to its first await, or the stream refuses. -/
theorem twinNegotiateStartsTheElection : Obligations.TwinNegotiateStartsTheElection := by
  refine fun force s hs => ⟨fun quiet => exec_twinNegotiate_quiet hs quiet force, fun streaming => ?_⟩
  rw [exec_twinNegotiate hs, streaming]
  rfl

theorem Device.timerStep_of_negotiating {d : Device} {p : NegPoint} (h : d.seq = .negotiating p) :
    d.timerStep = { d with negT := min Config.windowMs (d.negT + 1) } :=
  if_pos (by rw [h]; rfl)

theorem Device.timerStep_of_not_negotiating {d : Device} (h : d.seq.phase ≠ .negotiating) : d.timerStep = d :=
  if_neg h

theorem act_timer {s : State} {d : Device} (h : s.dev.timerStep = d) : act .timer s = .next (s.withDev d) := by
  rw [← h, act]

/-- Settles O30: a tick by the phase. -/
theorem timerCountsOnlyNegotiations : Obligations.TimerCountsOnlyNegotiations := fun _ =>
  ⟨fun _ hs => act_timer (Device.timerStep_of_negotiating hs),
    fun hp => act_timer (Device.timerStep_of_not_negotiating hp)⟩

/-! #### The four awaits of a round -/

/-- In an election a SEQ step is the step of its await. -/
theorem act_seq_of_negotiating {s : State} {p : NegPoint} {d : Device} (hs : s.dev.seq = .negotiating p)
    (h : s.dev.negotiateStep p = d) : act .seq s = .next (s.withDev d) := by
  rw [← h, act, Device.seqStep, hs]

namespace Device

variable {d : Device} {x : Byte} {rest : List Byte}

theorem recv_of_nil (h : d.rxq = []) : d.recv = none := by
  rw [recv, h]

theorem recv_of_cons (h : d.rxq = x :: rest) : d.recv = some (x, { d with rxq := rest }) := by
  rw [recv, h]

theorem negotiateStep_settle (d : Device) :
    d.negotiateStep .settle = if Config.settleMs ≤ d.negT then d.backoffStart else d := rfl

theorem negotiateStep_sample (d : Device) :
    d.negotiateStep .sample = if d.rngDone then d.listenStart d.drawnBackoff else d := rfl

theorem negotiateStep_listen_of_byte (h : d.rxq = x :: rest) :
    d.negotiateStep .listen =
      if x = tokPing then ({ d with rxq := rest }.send [tokAck]).negotiated .twinnedSlave
      else { d with rxq := rest } := by
  simp only [negotiateStep, recv_of_cons h]

theorem negotiateStep_listen_of_silence (h : d.rxq = []) :
    d.negotiateStep .listen =
      if d.negD ≤ d.negT then (d.send [tokPing]).goto (.negotiating .window) else d := by
  simp only [negotiateStep, recv_of_nil h]

theorem negotiateStep_window_of_byte (h : d.rxq = x :: rest) :
    d.negotiateStep .window =
      if x = tokAck then { d with rxq := rest }.negotiated .twinnedMaster
      else if x = tokPing then { d with rxq := rest }.collided
      else { d with rxq := rest } := by
  simp only [negotiateStep, recv_of_cons h]

theorem negotiateStep_window_of_silence (h : d.rxq = []) :
    d.negotiateStep .window = if Config.windowMs ≤ d.negT then d.negotiated .single else d := by
  simp only [negotiateStep, recv_of_nil h]

/-- A forced round, or one with USB priority, does not back off (42_twin_negotiation.md R233). -/
theorem backoffStart_of_priority (h : d.negForce = true ∨ (d.negPrio = true ∧ d.usbHost = true)) :
    d.backoffStart = d.listenStart 0 :=
  if_pos (by simpa using h)

theorem backoffStart_of_no_priority (hf : d.negForce = false) (hp : d.negPrio = false ∨ d.usbHost = false) :
    d.backoffStart = d.startCycle.goto (.negotiating .sample) :=
  if_neg (by rcases hp with h | h <;> simp [hf, h])

/-- With the parameters of 00_scope.md R6 the drawn backoff is in 3..67 (42_twin_negotiation.md R233). -/
theorem drawnBackoff_eq (d : Device) : d.drawnBackoff = 3 + (d.accWord 0).toNat % 65 := rfl

end Device

/-- Settles O28: the settle by its time and by the priority, the sample by the end of its cycle. -/
theorem backoffIsForcedOrDrawn : Obligations.BackoffIsForcedOrDrawn := by
  refine fun s => ⟨fun hs => ?settle, fun hs => ?sample⟩
  case settle =>
    have settle := s.dev.negotiateStep_settle
    refine ⟨fun early => ?_, fun late priority => ?_, fun late unforced noUsb => ?_⟩
    · exact act_seq_of_negotiating hs (settle.trans (if_neg (by simp [early, Config.settleMs])))
    · exact act_seq_of_negotiating hs
        ((settle.trans (if_pos late)).trans (Device.backoffStart_of_priority priority))
    · exact act_seq_of_negotiating hs
        ((settle.trans (if_pos late)).trans (Device.backoffStart_of_no_priority unforced noUsb))
  case sample =>
    have sample := s.dev.negotiateStep_sample
    rw [Device.drawnBackoff_eq] at sample
    exact ⟨fun sampling => act_seq_of_negotiating hs (sample.trans (if_neg (by simp [sampling]))),
      fun done => act_seq_of_negotiating hs (sample.trans (if_pos done))⟩

/-- Settles O29: each listen by its first byte, or by its time when no byte waits. -/
theorem roundReadsItsBytes : Obligations.RoundReadsItsBytes := by
  refine fun s => ⟨fun hs => ⟨fun rest hq => ?ping, fun x rest hq hx => ?other, fun hq full => ?elapsed,
      fun hq more => ?wait⟩,
    fun hs => ⟨fun rest hq => ?ack, fun rest hq => ?collision, fun x rest hq ha hp => ?discard, fun hq full => ?single,
      fun hq more => ?hold⟩⟩
  all_goals refine act_seq_of_negotiating hs ?_
  case ping => exact (Device.negotiateStep_listen_of_byte hq).trans (if_pos rfl)
  case other => exact (Device.negotiateStep_listen_of_byte hq).trans (if_neg hx)
  case elapsed => exact (Device.negotiateStep_listen_of_silence hq).trans (if_pos full)
  case wait => exact (Device.negotiateStep_listen_of_silence hq).trans (if_neg (Nat.not_le_of_lt more))
  case ack => exact (Device.negotiateStep_window_of_byte hq).trans (if_pos rfl)
  case collision =>
    exact (Device.negotiateStep_window_of_byte hq).trans ((if_neg (by decide)).trans (if_pos rfl))
  case discard => exact (Device.negotiateStep_window_of_byte hq).trans ((if_neg ha).trans (if_neg hp))
  case single => exact (Device.negotiateStep_window_of_silence hq).trans (if_pos full)
  case hold => exact (Device.negotiateStep_window_of_silence hq).trans (if_neg (Nat.not_le_of_lt more))

end Sys2Proof.Machine
end

section
/-! ### A forced election with no answer (42_twin_negotiation.md R230, R241) -/

namespace Sys2Proof.Machine

theorem actAll_append {as : List Action} {s t : State} (h : actAll as s = .next t) (bs : List Action) :
    actAll (as ++ bs) s = actAll bs t := by
  induction as generalizing s with
  | nil => cases h; rfl
  | cons a as ih =>
    obtain ⟨u, hu, _⟩ := act_move a s
    rw [actAll_cons hu] at h
    rw [List.cons_append, actAll_cons hu, ih h]

theorem actAll_singleton (a : Action) (s : State) : actAll [a] s = act a s := by
  obtain ⟨t, ht, _⟩ := act_move a s
  rw [actAll_cons ht, ht, actAll]

/-- Until the window is full every tick counts (42_twin_negotiation.md R240). -/
theorem actAll_timer {s : State} {p : NegPoint} (hs : s.dev.seq = .negotiating p) {n : Nat}
    (hn : s.dev.negT + n ≤ Config.windowMs) :
    actAll (List.replicate n .timer) s = .next (s.withDev { s.dev with negT := s.dev.negT + n }) := by
  induction n with
  | zero => rfl
  | succ n ih =>
    have counts : min Config.windowMs (s.dev.negT + n + 1) = s.dev.negT + (n + 1) := Nat.min_eq_right hn
    rw [List.replicate_succ', actAll_append (ih (by omega)), actAll_singleton, ← counts]
    exact act_timer (Device.timerStep_of_negotiating (p := p) hs)

/-- The device in the window of a forced election's first round, its PING sent, after `n` ticks. -/
def Device.pinged (d : Device) (n : Nat) : Device :=
  { d with
    conn := .indeterminate, seq := .negotiating .window, negForce := true, negPrio := true, negRounds := 0, negD := 0,
    negT := n, txq := d.txq ++ [.lit tokPing] }

/-- The device in the settle of a forced election's first round, after its tick. -/
def Device.settled (d : Device) : Device := { d.negotiateEffect true with negT := 1 }

/-- The command, the settle's tick, and the SEQ steps over the settle and over the listen of 0 ms. -/
def forcedStart : List Action := [.host (.write32 0x000 0x20000001), .timer, .seq, .seq]

theorem actAll_forcedStart {s : State} (hs : s.dev.seq = .idle) (quiet : s.dev.streamActive = false)
    (empty : s.dev.rxq = []) : actAll forcedStart s = .next (s.withDev (s.dev.pinged 0)) := by
  have command : act (.host (.write32 0x000 0x20000001)) s = .next (s.withDev (s.dev.negotiateEffect true)) :=
    (act_encode (.twinNegotiate true) s).trans (exec_twinNegotiate_quiet hs quiet true)
  have tick : act .timer (s.withDev (s.dev.negotiateEffect true)) = .next (s.withDev s.dev.settled) :=
    act_timer (Device.timerStep_of_negotiating (p := .settle) rfl)
  have settle : act .seq (s.withDev s.dev.settled) = .next (s.withDev (s.dev.settled.listenStart 0)) :=
    act_seq_of_negotiating (p := .settle) rfl
      ((s.dev.settled.negotiateStep_settle.trans (if_pos (le_refl 1))).trans
        (Device.backoffStart_of_priority (.inl rfl)))
  have listen : act .seq (s.withDev (s.dev.settled.listenStart 0)) = .next (s.withDev (s.dev.pinged 0)) :=
    act_seq_of_negotiating (p := .listen) rfl
      ((Device.negotiateStep_listen_of_silence (d := s.dev.settled.listenStart 0) empty).trans (if_pos (le_refl 0)))
  rw [forcedStart, actAll_cons command, actAll_cons tick, actAll_cons settle, actAll_singleton, listen]

theorem actAll_forced_ticks {s : State} (hs : s.dev.seq = .idle) (quiet : s.dev.streamActive = false)
    (empty : s.dev.rxq = []) {n : Nat} (hn : n ≤ Config.windowMs) :
    actAll (forcedStart ++ List.replicate n .timer) s = .next (s.withDev (s.dev.pinged n)) := by
  have ticks := actAll_timer (s := s.withDev (s.dev.pinged 0)) (p := .window) rfl (n := n)
    (by simpa [Device.pinged] using hn)
  rw [actAll_append (actAll_forcedStart hs quiet empty), ticks]
  simp [Device.pinged, State.withDev]

/-- The SEQ step after `n` ticks: the silence lasted to the window's end, or the await holds (42_twin_negotiation.md
R236). -/
theorem actAll_forced {s : State} (hs : s.dev.seq = .idle) (quiet : s.dev.streamActive = false)
    (empty : s.dev.rxq = []) {n : Nat} (hn : n ≤ Config.windowMs) :
    actAll (forcedStart ++ List.replicate n .timer ++ [.seq]) s =
      .next (s.withDev (if Config.windowMs ≤ n then (s.dev.pinged n).negotiated .single else s.dev.pinged n)) := by
  rw [actAll_append (actAll_forced_ticks hs quiet empty hn), actAll_singleton]
  exact act_seq_of_negotiating (p := .window) rfl
    (Device.negotiateStep_window_of_silence (d := s.dev.pinged n) empty)

/-- Settles O31: the SEQ step after the last tick ends the election, the one a tick earlier waits. -/
theorem forcedElectionAlone : Obligations.ForcedElectionAlone := by
  intro s hs quiet empty start
  have last := actAll_forced hs quiet empty (le_refl Config.windowMs)
  have early := actAll_forced hs quiet empty (show 999 ≤ Config.windowMs by decide)
  rw [if_pos (le_refl _)] at last
  rw [if_neg (by decide)] at early
  exact ⟨last, _, early, rfl, rfl⟩

end Sys2Proof.Machine
end

section
/-! ### The writers of CONN (10_state.md R47, 42_twin_negotiation.md R242) -/

namespace Sys2Proof.Machine

/-- Everything that action `a` can do to CONN, with what holds when it does. -/
inductive ConnMove (a : Action) (d d' : Device) : Prop where
  | same (hc : d'.conn = d.conn)
  | begin (f : Bool) (ha : a = .host (.write32 0x000 (encode (.twinNegotiate f)))) (hs : d.seq = .idle)
      (hc : d'.conn = .indeterminate)
  | reset (draw : ResetDraw) (ha : a = .reset draw) (hc : d'.conn = .indeterminate)
  | single (ha : a = .seq) (hs : d.seq = .negotiating .window) (hq : d.rxq = []) (ht : Config.windowMs ≤ d.negT)
      (hc : d'.conn = .single) (hs' : d'.seq = .idle)
  | master (ha : a = .seq) (hs : d.seq = .negotiating .window) (hq : d.rxq.head? = some tokAck)
      (hc : d'.conn = .twinnedMaster) (hs' : d'.seq = .idle)
  | slave (ha : a = .seq) (hs : d.seq = .negotiating .listen) (hq : d.rxq.head? = some tokPing)
      (hc : d'.conn = .twinnedSlave) (htx : d'.txq = d.txq ++ [.lit tokAck]) (hs' : d'.seq = .idle)
  | collision (ha : a = .seq) (hs : d.seq = .negotiating .window) (hq : d.rxq.head? = some tokPing)
      (hc : d'.conn = .collision) (hs' : d'.seq = .negotiating .settle)

/-! #### The SEQ step -/

theorem Device.backoffStart_conn (d : Device) : d.backoffStart.conn = d.conn := by
  unfold Device.backoffStart
  split <;> rfl

theorem negotiateStep_connMove {d : Device} {p : NegPoint} (hs : d.seq = .negotiating p) :
    ConnMove .seq d (d.negotiateStep p) := by
  cases p with
  | settle =>
    rw [Device.negotiateStep_settle]
    split
    · exact .same d.backoffStart_conn
    · exact .same rfl
  | sample =>
    rw [Device.negotiateStep_sample]
    split <;> exact .same rfl
  | listen =>
    cases hq : d.rxq with
    | nil =>
      rw [Device.negotiateStep_listen_of_silence hq]
      split <;> exact .same rfl
    | cons x rest =>
      rw [Device.negotiateStep_listen_of_byte hq]
      split
      · next hx => exact .slave rfl hs (by rw [hq, hx]; rfl) rfl rfl rfl
      · exact .same rfl
  | window =>
    cases hq : d.rxq with
    | nil =>
      rw [Device.negotiateStep_window_of_silence hq]
      split
      · next ht => exact .single rfl hs hq ht rfl rfl
      · exact .same rfl
    | cons x rest =>
      rw [Device.negotiateStep_window_of_byte hq]
      split
      · next hx => exact .master rfl hs (by rw [hq, hx]; rfl) rfl rfl
      · split
        · next hx => exact .collision rfl hs (by rw [hq, hx]; rfl) rfl rfl
        · exact .same rfl

/-- Outside an election the sequencer leaves CONN (10_state.md R47). -/
theorem seqMove_conn {d d' : Device} (m : SeqMove d d') (hp : d.seq.phase ≠ .negotiating) : d'.conn = d.conn := by
  cases m with
  | election p hs m => exact absurd (by rw [hs]; rfl) hp
  | keeps _ k => rw [k.eq_edit]
  | stream _ _ k => rw [k.eq_edit]; rfl
  | sum _ _ _ k => rw [k.eq_edit]

theorem seqStep_connMove (d : Device) : ConnMove .seq d d.seqStep := by
  by_cases hp : d.seq.phase = .negotiating
  · cases hs : d.seq with
    | negotiating p =>
      have step : d.seqStep = d.negotiateStep p := by rw [Device.seqStep, hs]
      rw [step]
      exact negotiateStep_connMove hs
    | idle | replicating _ _ | checksumming _ | slaveFrame _ => rw [hs] at hp; cases hp
  · exact .same (seqMove_conn d.seqStep_move hp)

/-! #### The HOST step -/

theorem issue_conn {d effect : Device} {inRange : Bool} {own : Option ErrBit} (h : effect.conn = d.conn) :
    (d.issue inRange own effect).conn = d.conn := by
  rcases d.issue_cases inRange own effect with ⟨_, e⟩ | ⟨_, _, e⟩ | ⟨b, _, _, _, e⟩ | ⟨_, _, _, e⟩ <;> rw [e]
  · rfl
  · rfl
  · rfl
  · exact h

/-- Of the commands only TWIN_NEGOTIATE writes CONN, on an idle device (42_twin_negotiation.md R230). -/
theorem exec_connMove (i : Instr) (s : State) :
    ∃ d, exec i s = .next (s.withDev d) ∧ ConnMove (.host (.write32 0x000 (encode i))) s.dev d := by
  cases i with
  | nop => exact ⟨s.dev, rfl, .same rfl⟩
  | eccGen r => exact ⟨_, rfl, .same (issue_conn rfl)⟩
  | eccVerify r => exact ⟨_, rfl, .same (issue_conn (by rw [Device.eccVerifyEffect_eq]))⟩
  | rngStart => exact ⟨_, rfl, .same (issue_conn rfl)⟩
  | rngBitsStart off len =>
    refine ⟨_, rfl, .same (issue_conn ?_)⟩
    unfold Device.bitsStartEffect
    split <;> rfl
  | bufSwap => exact ⟨_, rfl, .same (issue_conn rfl)⟩
  | twinNegotiate f =>
    refine ⟨_, rfl, ?_⟩
    rcases s.dev.issue_cases (s.dev.inRange (.twinNegotiate f)) (s.dev.whileStreaming .rngBusy)
      (s.dev.negotiateEffect f) with ⟨_, e⟩ | ⟨_, _, e⟩ | ⟨b, _, _, _, e⟩ | ⟨free, _, _, e⟩ <;> rw [e]
    · exact .same rfl
    · exact .same rfl
    · exact .same rfl
    · exact .begin f rfl (Device.busy_eq_false free) rfl
  | twinReplicate => exact ⟨_, rfl, .same (issue_conn rfl)⟩
  | blockChecksum b => exact ⟨_, rfl, .same (issue_conn rfl)⟩

theorem issueCommand_connMove (w : Word) (s : State) :
    ∃ d, issueCommand w s = .next (s.withDev d) ∧ ConnMove (.host (.write32 0x000 w)) s.dev d := by
  cases h : decode w with
  | ok i =>
    rw [issueCommand_of_ok h, ← encode_of_decode h]
    exact exec_connMove i s
  | error r =>
    refine ⟨_, issueCommand_of_error h s, .same ?_⟩
    rcases s.dev.rejectCommand_cases r with h | h | h <;> rw [h] <;> rfl

theorem Device.mmioRead_conn (d : Device) (o : Offset) (n : Width) : (d.mmioRead o n).conn = d.conn := by
  unfold Device.mmioRead
  split <;> rfl

theorem Device.mmioWrite8_conn (d : Device) (o : Offset) (v : Byte) : (d.mmioWrite8 o v).conn = d.conn := by
  unfold Device.mmioWrite8
  split
  · split
    · unfold Device.writeNand
      split <;> rfl
    · unfold Device.writeRng
      split
      · rfl
      · split <;> rfl
    · rfl
  · rfl

theorem Device.mmioWrite32_conn (d : Device) (o : Offset) (v : Word) : (d.mmioWrite32 o v).conn = d.conn := by
  unfold Device.mmioWrite32
  split
  · split <;> rfl
  · rfl

theorem hostStep_connMove (acc : Access) (s : State) :
    ∃ d, hostStep acc s = .next (s.withDev d) ∧ ConnMove (.host acc) s.dev d := by
  cases acc with
  | read o n => exact ⟨_, rfl, .same (s.dev.mmioRead_conn o n)⟩
  | write8 o v => exact ⟨_, rfl, .same (s.dev.mmioWrite8_conn o v)⟩
  | write32 o v =>
    simp only [hostStep]
    split
    · next ht =>
      obtain ⟨cmd, _⟩ := targetOf_register o
      rw [cmd ht]
      exact issueCommand_connMove v s
    · exact ⟨_, rfl, .same (s.dev.mmioWrite32_conn o v)⟩

/-! #### Every agent's step -/

theorem act_connMove (a : Action) (s : State) : ∃ t, act a s = .next t ∧ ConnMove a s.dev t.dev := by
  cases a with
  | host acc =>
    obtain ⟨d, h, m⟩ := hostStep_connMove acc s
    exact ⟨_, h, m⟩
  | seq => exact ⟨_, rfl, seqStep_connMove s.dev⟩
  | adc x => exact ⟨_, rfl, .same (by rw [State.withDev_dev, Device.adcStep_eq])⟩
  | timer => exact ⟨_, rfl, .same (by rw [State.withDev_dev, Device.timerStep_eq])⟩
  | uartRx =>
    refine ⟨_, rfl, .same ?_⟩
    unfold State.uartRxStep
    split
    · rfl
    · dsimp only
      rw [Device.receive_eq]
  | uartTx =>
    refine ⟨_, rfl, .same ?_⟩
    unfold State.uartTxStep
    split <;> rfl
  | flash ok content => exact ⟨_, rfl, .same (by rw [State.withDev_dev, Device.flashStep_eq])⟩
  | book => exact ⟨_, rfl, .same (by rw [State.withDev_dev, Device.bookStep_eq])⟩
  | reset draw => exact ⟨_, rfl, .reset draw rfl rfl⟩
  | usbHost level => exact ⟨_, rfl, .same rfl⟩

/-- Settles O32: each value of CONN by the one step that writes it. -/
theorem connIsWrittenOnlyByTheElection : Obligations.ConnIsWrittenOnlyByTheElection := by
  intro a s
  obtain ⟨t, h, m⟩ := act_connMove a s
  refine ⟨t, h, fun changed => ?_⟩
  cases m with
  | same hc => exact absurd hc changed
  | begin f ha hs hc => rw [hc]; exact .inl ⟨f, ha, hs⟩
  | reset draw ha hc => rw [hc]; exact .inr ⟨draw, ha⟩
  | single ha hs hq ht hc hs' => rw [hc]; exact ⟨ha, hs, hq, ht, hs'⟩
  | master ha hs hq hc hs' => rw [hc]; exact ⟨ha, hs, hq, hs'⟩
  | slave ha hs hq hc htx hs' => rw [hc]; exact ⟨ha, hs, hq, htx, hs'⟩
  | collision ha hs hq hc hs' => rw [hc]; exact ⟨ha, hs, hq, hs'⟩

end Sys2Proof.Machine
end

section
/-! ### One turn of a checksum (43_twin_replication.md R270) -/

namespace Sys2Proof.Machine

/-- What follows the paragraph of a checksum once its data is in `sum`: the next paragraph, or the end
(43_twin_replication.md R270). -/
def ChecksumLoop.advance (c : ChecksumLoop) (sum : Word) : ChecksumNext :=
  match nextPara c.pg c.q with
  | some (pg, q) => .more ⟨c.b, pg, q, sum⟩
  | none => .finished true sum

theorem nextPara_of_lt (pg : Nat) {q : Nat} (h : q < 3) : nextPara pg q = some (pg, q + 1) :=
  if_pos h

theorem nextPara_of_page {pg q : Nat} (hq : ¬ q < 3) (h : pg < 63) : nextPara pg q = some (pg + 1, 0) :=
  (if_neg hq).trans (if_pos h)

theorem nextPara_of_last {pg q : Nat} (hq : ¬ q < 3) (h : ¬ pg < 63) : nextPara pg q = none :=
  (if_neg hq).trans (if_neg h)

theorem ChecksumLoop.advance_eq (c : ChecksumLoop) (sum : Word) :
    c.advance sum =
      if c.q < 3 then .more ⟨c.b, c.pg, c.q + 1, sum⟩
      else if c.pg < 63 then .more ⟨c.b, c.pg + 1, 0, sum⟩
      else .finished true sum := by
  unfold advance
  by_cases hq : c.q < 3
  · rw [nextPara_of_lt _ hq, if_pos hq]
  · by_cases hp : c.pg < 63
    · rw [nextPara_of_page hq hp, if_neg hq, if_pos hp]
    · rw [nextPara_of_last hq hp, if_neg hq, if_neg hp]

namespace Device

/-- The device with a read paragraph in its nand buffer. -/
def loaded (d : Device) (r : FlashResult) : Device := d.setBufBytes d.sel 0 (r.bytes.take 528)

/-- The syndrome of a read paragraph against the code in its own spare (43_twin_replication.md R270). -/
def readSyn (d : Device) (r : FlashResult) : BitVec 25 :=
  eccSyndrome ((d.loaded r).bufData d.sel) ((d.loaded r).storedCode d.sel)

/-- The device with a read paragraph in its nand buffer, corrected if its code can. -/
def corrected (d : Device) (r : FlashResult) : Device := (d.loaded r).correctBuf d.sel (d.readSyn r)

theorem correctBuf_of_ne {d : Device} (p : Bool) {syn : BitVec 25} (h : eccDispatch syn ≠ .corrected) :
    d.correctBuf p syn = d :=
  if_neg h

theorem corrected_eq (d : Device) (r : FlashResult) : d.corrected r = { d with buf := (d.corrected r).buf } := by
  rw [corrected, correctBuf_eq]
  rfl

/-- A failed read ends the checksum with the sum so far (43_twin_replication.md R270). -/
theorem checksumTurn_of_failed (d : Device) (c : ChecksumLoop) {r : FlashResult} (h : r.ok = false) :
    d.checksumTurn c r = (d, .finished false c.sum) :=
  if_neg (by simp [h])

/-- A read paragraph ends the checksum if it is uncorrectable, and is added corrected if not (43_twin_replication.md
R270). -/
theorem checksumTurn_of_read (d : Device) (c : ChecksumLoop) {r : FlashResult} (h : r.ok = true) :
    d.checksumTurn c r = (d.corrected r,
      if eccDispatch (d.readSyn r) = .uncorrectable then .finished false c.sum
      else c.advance ((d.corrected r).addData d.sel c.sum)) := by
  have read : d.checksumTurn c r =
      if eccDispatch (d.readSyn r) = .uncorrectable then (d.loaded r, .finished false c.sum)
      else match nextPara c.pg c.q with
        | some (pg, q) =>
          (d.corrected r, .more ⟨c.b, pg, q, (d.corrected r).addData (d.corrected r).sel c.sum⟩)
        | none => (d.corrected r, .finished true ((d.corrected r).addData (d.corrected r).sel c.sum)) :=
    if_pos h
  have role : (d.corrected r).sel = d.sel := by rw [corrected_eq]
  rw [read, role, ChecksumLoop.advance]
  split
  · next hu => rw [corrected, correctBuf_of_ne _ (by rw [hu]; nofun)]
  · split <;> rfl

end Device
end Sys2Proof.Machine
end

section
/-! ### Every program carries its code and no checksum wraps (43_twin_replication.md R266, R271) -/

namespace Sys2Proof.Machine

/-- 512 data bytes followed by the spare image of their code (43_twin_replication.md R266). -/
def CodedParagraph (bytes : List Byte) : Prop :=
  bytes = bytes.take 512 ++ spareImage (eccGen (fun i => bytes.getD i 0)) ∧ bytes.length = 528

/-- The code of a buffer's data as the list that is programmed has it. -/
theorem eccGen_bufData (d : Device) (p : Bool) (tail : List Byte) :
    eccGen (fun i => ((List.range 512).map (fun i => d.bufByte p i) ++ tail).getD i 0) = eccGen (d.bufData p) :=
  eccGen_congr fun i hi => by simp [List.getD_eq_getElem?_getD, List.getElem?_append, hi, Device.bufData]

/-- The nand buffer after its spare is written is a coded paragraph (43_twin_replication.md R266). -/
theorem codedParagraph_writeSpare (d : Device) : CodedParagraph (d.writeSpare.bufPara d.sel) := by
  rw [Device.bufPara_writeSpare, CodedParagraph, eccGen_bufData, List.take_left' (by simp)]
  exact ⟨rfl, by simp [spareImage_length]⟩

/-! #### The bound of a sum -/

/-- Adding bytes to a word adds at most 255 for each, whether it wraps or not. -/
theorem toNat_foldl_bytes_le (f : Nat → Byte) (l : List Nat) (sum : Word) :
    (l.foldl (fun acc i => acc + (f i).setWidth 32) sum).toNat ≤ sum.toNat + 255 * l.length := by
  induction l generalizing sum with
  | nil => simp
  | cons i l ih =>
    have byte : ((f i).setWidth 32).toNat ≤ 255 := by
      have := (f i).isLt
      rw [BitVec.toNat_setWidth_of_le (by decide)]
      omega
    have add : (sum + (f i).setWidth 32).toNat ≤ sum.toNat + ((f i).setWidth 32).toNat := by
      rw [BitVec.toNat_add]
      exact Nat.mod_le _ _
    have rest := ih (sum + (f i).setWidth 32)
    simp only [List.foldl_cons, List.length_cons]
    omega

theorem Device.toNat_addData_le (d : Device) (p : Bool) (sum : Word) :
    (d.addData p sum).toNat ≤ sum.toNat + 130560 := by
  have := toNat_foldl_bytes_le (fun i => d.bufByte p i) (List.range 512) sum
  rwa [List.length_range] at this

/-- What a turn leads to is within the bound of the paragraphs added so far (43_twin_replication.md R271). -/
def ChecksumNext.Bounded : ChecksumNext → Prop
  | .more c => c.bounded = true
  | .finished _ sum => sum.toNat ≤ 33423360

theorem ChecksumLoop.bounded_iff (c : ChecksumLoop) :
    c.bounded = true ↔ c.pg ≤ 63 ∧ c.q ≤ 3 ∧ c.sum.toNat ≤ (c.pg * 4 + c.q) * 130560 := by
  simp [bounded, and_assoc]

theorem ChecksumLoop.advance_bounded {c : ChecksumLoop} {sum : Word} (h : c.bounded = true)
    (hs : sum.toNat ≤ c.sum.toNat + 130560) : (c.advance sum).Bounded := by
  rw [bounded_iff] at h
  rw [advance_eq]
  split
  · exact (bounded_iff _).mpr (by dsimp only; omega)
  · split
    · exact (bounded_iff _).mpr (by dsimp only; omega)
    · show sum.toNat ≤ 33423360
      omega

theorem Device.checksumTurn_bounded (d : Device) {c : ChecksumLoop} (r : FlashResult) (h : c.bounded = true) :
    (d.checksumTurn c r).2.Bounded := by
  have soFar : (ChecksumNext.finished false c.sum).Bounded := by
    rw [ChecksumLoop.bounded_iff] at h
    show c.sum.toNat ≤ 33423360
    omega
  cases hr : r.ok with
  | false => rwa [checksumTurn_of_failed d c hr]
  | true =>
    rw [checksumTurn_of_read d c hr]
    dsimp only
    split
    · exact soFar
    · exact ChecksumLoop.advance_bounded h (toNat_addData_le _ _ _)

/-! #### What of the sequencer upholds the two -/

/-- From `d` to `d'` programs stay coded and sums stay bounded. -/
structure Device.Upholds (d d' : Device) : Prop where
  coded : d.CodedProgram → d'.CodedProgram
  sums : d.SumInv → d'.SumInv

namespace Device.Upholds

variable {d e d' : Device}

@[refl] theorem refl (d : Device) : Upholds d d := ⟨id, id⟩

@[trans] theorem trans (h : Upholds d e) (h' : Upholds e d') : Upholds d d' := ⟨h'.coded ∘ h.coded, h'.sums ∘ h.sums⟩

/-- An edit that leaves the sequencer's point, the flash request and CHKSUM. -/
theorem edit (hs : d'.seq = d.seq) (hf : d'.flashReq = d.flashReq) (hc : d'.chksum = d.chksum) : Upholds d d' where
  coded h := by rwa [CodedProgram, hf]
  sums h := ⟨by rw [hs]; exact h.loop, by rw [hc]; exact h.register⟩

/-- An edit that ends outside a checksum with no new flash request. -/
theorem arrive (hs : d'.seq.checksumLoop = none) (hf : d'.flashReq = d.flashReq ∨ d'.flashReq = none)
    (hc : d'.chksum = d.chksum) : Upholds d d' where
  coded h := by
    rcases hf with hf | hf
    · rwa [CodedProgram, hf]
    · rw [CodedProgram, hf]
      nofun
  sums h := ⟨by rw [hs]; nofun, by rw [hc]; exact h.register⟩

/-- A request other than of a checksum: an erase, or the program of a coded paragraph. -/
theorem ask {r : FlashRequest} (hs : d'.seq.checksumLoop = none) (hf : d'.flashReq = some r)
    (hr : ∀ b pg q bytes, r = .program b pg q bytes → CodedParagraph bytes) (hc : d'.chksum = d.chksum) :
    Upholds d d' where
  coded _ b pg q bytes h := hr b pg q bytes (Option.some.inj (hf.symm.trans h))
  sums h := ⟨by rw [hs]; nofun, by rw [hc]; exact h.register⟩

theorem erase {b : Nat} (hs : d'.seq.checksumLoop = none) (hf : d'.flashReq = some (.erase b))
    (hc : d'.chksum = d.chksum) : Upholds d d' :=
  ask hs hf nofun hc

/-- The read of a checksum's paragraph. -/
theorem read {c : ChecksumLoop} (hs : d'.seq.checksumLoop = some c) (hf : d'.flashReq = some c.request)
    (hb : d.SumInv → c.bounded = true) (hc : d'.chksum = d.chksum) : Upholds d d' where
  coded _ b pg q bytes h := nomatch Option.some.inj (hf.symm.trans h)
  sums h := ⟨fun c' hc' => by rw [← Option.some.inj (hs.symm.trans hc')]; exact hb h, by rw [hc]; exact h.register⟩

theorem checksumStart_bounded (b : Nat) : (checksumStart b).bounded = true := rfl

theorem recv {x : Byte} (h : d.recv = some (x, d')) : Upholds d d' := by
  obtain ⟨rest, _, rfl⟩ := Device.recv_some h
  exact edit rfl rfl rfl

/-! #### The run (43_twin_replication.md R260 to R269) -/

theorem enterBlock (d : Device) (tw : Bool) (b : Nat) : Upholds d (d.enterBlock tw b) := by
  unfold Device.enterBlock
  split <;> exact arrive rfl (.inl rfl) rfl

theorem auditJudge (d : Device) (tw : Bool) (b : Nat) (ownSum remote : Option Word) :
    Upholds d (d.auditJudge tw b ownSum remote) := by
  unfold Device.auditJudge
  split
  · exact enterBlock d tw _
  · exact arrive rfl (.inl rfl) rfl

theorem auditLocal (d : Device) (tw : Bool) (b : Nat) (bad : Bool) (remote : Option Word) :
    Upholds d (d.auditLocal tw b bad remote) := by
  unfold Device.auditLocal
  split
  · exact auditJudge d tw b _ _
  · exact read rfl rfl (fun _ => checksumStart_bounded b) rfl

theorem auditStart (d : Device) (tw : Bool) (b : Nat) (bad : Bool) : Upholds d (d.auditStart tw b bad) := by
  unfold Device.auditStart
  split
  · exact arrive rfl (.inl rfl) rfl
  · split
    · exact arrive rfl (.inl rfl) rfl
    · exact enterBlock d tw _

theorem afterPara (d : Device) (tw : Bool) (b pg q : Nat) (bad : Bool) : Upholds d (d.afterPara tw b pg q bad) := by
  unfold Device.afterPara
  split
  · exact arrive rfl (.inl rfl) rfl
  · exact auditStart d tw b bad

theorem afterProgram (d : Device) (tw : Bool) (b pg q : Nat) (bad : Bool) :
    Upholds d (d.afterProgram tw b pg q bad) := by
  unfold Device.afterProgram
  split
  · exact arrive rfl (.inl rfl) rfl
  · exact afterPara d tw b pg q bad

theorem sendPara (d : Device) (tw : Bool) (b pg q : Nat) : Upholds d (d.sendPara tw b pg q) := by
  unfold Device.sendPara
  split
  · exact edit rfl rfl rfl
  · rfl

/-- The paragraph a run programs is its nand buffer with the spare just written (43_twin_replication.md R266). -/
theorem paraReady (d : Device) (tw : Bool) (b pg q : Nat) (bad : Bool) :
    Upholds d (d.paraReady tw b pg q bad) := by
  have spare : Upholds d (d.swapBuffers.startStream 0 512).writeSpare := edit rfl rfl rfl
  have ready := spare.trans (sendPara _ tw b pg q)
  have para : ((d.swapBuffers.startStream 0 512).writeSpare.sendPara tw b pg q).bufPara (!d.sel) =
      (d.swapBuffers.startStream 0 512).writeSpare.bufPara (!d.sel) := by
    rw [bufPara, sendPara_buf]
    rfl
  have role : ((d.swapBuffers.startStream 0 512).writeSpare.sendPara tw b pg q).sel = !d.sel := by
    unfold Device.sendPara
    split <;> rfl
  unfold Device.paraReady
  dsimp only
  split
  · exact ready.trans (afterProgram _ tw b pg q bad)
  · refine ready.trans (ask rfl rfl (fun _ _ _ _ h => ?_) rfl)
    cases h
    rw [role, para]
    exact codedParagraph_writeSpare (d.swapBuffers.startStream 0 512)

theorem expect (d : Device) (t : Byte) {k : Device → Device} (hk : ∀ d1, Upholds d1 (k d1)) :
    Upholds d (d.expect t k) := by
  unfold Device.expect
  split
  · rfl
  · next h =>
    split
    · exact (recv h).trans (hk _)
    · exact (recv h).trans (arrive rfl (.inl rfl) rfl)

theorem checksumTurn (d : Device) (c : ChecksumLoop) (r : FlashResult) : Upholds d (d.checksumTurn c r).1 := by
  cases hr : r.ok with
  | false => rw [checksumTurn_of_failed d c hr]
  | true =>
    rw [checksumTurn_of_read d c hr, corrected_eq]
    exact edit rfl rfl rfl

/-- A turn of the checksum the device is inside of: CHKSUM stays, and the sum keeps its bound. -/
theorem turn {c : ChecksumLoop} (hs : d.seq.checksumLoop = some c) {r : FlashResult} {d1 : Device} {n : ChecksumNext}
    (ht : d.takeFlash.checksumTurn c r = (d1, n)) :
    Upholds d d1 ∧ d1.chksum = d.chksum ∧ (d.SumInv → n.Bounded) := by
  have turned : Upholds d (d.takeFlash.checksumTurn c r).1 :=
    (edit rfl rfl rfl : Upholds d d.takeFlash).trans (checksumTurn _ _ _)
  have register : (d.takeFlash.checksumTurn c r).1.chksum = d.chksum := by
    rw [(Keeps.checksumTurn d.takeFlash c r).eq_edit]
    rfl
  have bounded (h : c.bounded = true) := d.takeFlash.checksumTurn_bounded r h
  rw [ht] at turned register bounded
  exact ⟨turned, register, fun h => bounded (h.loop c hs)⟩

theorem auditTurn {tw : Bool} {remote : Option Word} {c : ChecksumLoop}
    (hs : d.seq = .replicating tw (.auditRead remote c)) (r : FlashResult) :
    Upholds d (d.takeFlash.auditTurn tw remote c r) := by
  unfold Device.auditTurn
  rcases ht : d.takeFlash.checksumTurn c r with ⟨d1, c1 | ⟨ok, sum⟩⟩
  all_goals obtain ⟨turned, register, bounded⟩ := turn (by rw [hs]; rfl) ht
  · exact read rfl rfl bounded register
  · exact turned.trans (auditJudge _ tw _ _ _)

theorem auditToken (d : Device) (tw : Bool) (b : Nat) (bad : Bool) (x : Byte) :
    Upholds d (d.auditToken tw b bad x) := by
  unfold Device.auditToken
  split
  · exact arrive rfl (.inl rfl) rfl
  · split
    · exact auditLocal d tw b bad _
    · exact arrive rfl (.inl rfl) rfl

theorem auditSumByte (d : Device) (tw : Bool) (b : Nat) (bad : Bool) (got : List Byte) (x : Byte) :
    Upholds d (d.auditSumByte tw b bad got x) := by
  unfold Device.auditSumByte
  split
  · exact auditLocal d tw b bad _
  · exact arrive rfl (.inl rfl) rfl

/-- In a run a paragraph is programmed coded, and the audit's own checksum stays bounded. -/
theorem replicateStep {tw : Bool} {p : RunPoint} (hs : d.seq = .replicating tw p) :
    Upholds d (d.replicateStep tw p) := by
  have tookBook : Upholds d d.takeBook := edit rfl rfl rfl
  have tookFlash : Upholds d d.takeFlash := edit rfl rfl rfl
  cases p with
  | fill b pg q bad =>
    simp only [Device.replicateStep]
    split
    · rfl
    · exact paraReady d tw b pg q bad
  | auditRead remote c =>
    simp only [Device.replicateStep]
    split
    · exact auditTurn hs _
    · rfl
  | firstStream =>
    simp only [Device.replicateStep]
    split
    · rfl
    · have streaming : Upholds d (d.startStream 0 512) := edit rfl rfl rfl
      exact streaming.trans (enterBlock _ tw 1)
  | status b =>
    simp only [Device.replicateStep]
    split
    · split
      · exact arrive rfl (.inl rfl) rfl
      · exact tookBook.trans (enterBlock _ tw _)
    · exact erase rfl rfl rfl
    · rfl
  | programming b pg q =>
    simp only [Device.replicateStep]
    split
    · exact tookFlash.trans (afterProgram _ tw b pg q _)
    · rfl
  | skipAck b | markAck b => exact expect d _ fun _ => enterBlock _ tw _
  | dataAck b pg q bad => exact expect d _ fun _ => afterPara _ tw b pg q bad
  | auditReply b bad =>
    simp only [Device.replicateStep]
    split
    · next h => exact (recv h).trans (auditToken _ tw b bad _)
    · rfl
  | auditSum b bad got =>
    simp only [Device.replicateStep]
    split
    · next h => exact (recv h).trans (auditSumByte _ tw b bad got _)
    · rfl
  | localMark b =>
    simp only [Device.replicateStep]
    split
    · exact tookBook.trans (enterBlock _ tw _)
    · rfl
  | checkFinished | checkStarted =>
    simp only [Device.replicateStep]
    split
    · exact arrive rfl (.inl rfl) rfl
    · exact arrive rfl (.inl rfl) rfl
    · rfl
  | setStarted | erasing b | auditMark b | finishing =>
    simp only [Device.replicateStep]
    split
    · exact arrive rfl (.inl rfl) rfl
    · rfl

theorem checksumStep {c : ChecksumLoop} (hs : d.seq = .checksumming c) : Upholds d (d.checksumStep c) := by
  unfold Device.checksumStep
  split
  · rfl
  · next r _ =>
    rcases ht : d.takeFlash.checksumTurn c r with ⟨d1, c1 | ⟨ok, sum⟩⟩
    all_goals obtain ⟨turned, register, bounded⟩ := turn (by rw [hs]; rfl) ht
    · exact read rfl rfl bounded register
    · exact ⟨turned.coded, fun h => ⟨nofun, bounded h⟩⟩

/-! #### The slave frame (43_twin_replication.md R277 to R284) -/

theorem slaveProgram (d : Device) (f : SlaveFrame) : Upholds d (d.slaveProgram f) :=
  ask rfl rfl (fun _ _ _ _ h => by cases h; exact codedParagraph_writeSpare d) rfl

theorem frameComplete (d : Device) (f : SlaveFrame) : Upholds d (d.frameComplete f) := by
  have desync : Upholds d d.slaveDesync := arrive rfl (.inl rfl) rfl
  unfold Device.frameComplete
  split
  · unfold Device.beginData
    split
    · split
      · exact arrive rfl (.inl rfl) rfl
      · exact slaveProgram d f
    · exact desync
  · split
    · unfold Device.reqChecksum
      split
      · exact read rfl rfl (fun _ => checksumStart_bounded _) rfl
      · exact desync
    · unfold Device.markBlock
      split
      · exact arrive rfl (.inl rfl) rfl
      · exact desync

theorem payloadByte (d : Device) (f : SlaveFrame) (x : Byte) : Upholds d (d.payloadByte f x) := by
  have stored : Upholds d (d.storePayload f x) := by
    rw [Device.storePayload_eq]
    exact edit rfl rfl rfl
  unfold Device.payloadByte
  dsimp only
  split
  · exact stored.trans (frameComplete _ _)
  · exact stored.trans (arrive rfl (.inl rfl) rfl)

theorem slaveStart (d : Device) : Upholds d d.slaveStart := by
  unfold Device.slaveStart
  split
  · split
    · next h =>
      refine (recv h).trans ?_
      unfold Device.firstByte
      split
      · exact arrive rfl (.inl rfl) rfl
      · split <;> exact edit rfl rfl rfl
    · rfl
  · rfl

/-- A slave programs its frame's paragraph coded, and its checksum stays bounded. -/
theorem slaveStep {f : SlaveFrame} (hs : d.seq = .slaveFrame f) : Upholds d (d.slaveStep f) := by
  obtain ⟨token, payload, point⟩ := f
  cases point with
  | payload =>
    simp only [Device.slaveStep]
    split
    · next h => exact (recv h).trans (payloadByte _ _ _)
    · rfl
  | checkStarted =>
    simp only [Device.slaveStep]
    split
    · exact erase rfl rfl rfl
    · exact arrive rfl (.inl rfl) rfl
    · rfl
  | setStarted =>
    simp only [Device.slaveStep]
    split
    · exact erase rfl rfl rfl
    · rfl
  | erasing =>
    simp only [Device.slaveStep]
    split
    · have took : Upholds d d.takeFlash := edit rfl rfl rfl
      exact took.trans (slaveProgram _ _)
    · rfl
  | checksum c =>
    simp only [Device.slaveStep]
    split
    · rfl
    · next r _ =>
      rcases ht : d.takeFlash.checksumTurn c r with ⟨d1, c1 | ⟨ok, sum⟩⟩
      all_goals obtain ⟨turned, register, bounded⟩ := turn (by rw [hs]; rfl) ht
      · exact read rfl rfl bounded register
      · exact turned.trans (arrive rfl (.inl rfl) rfl)
  | programming | marking =>
    simp only [Device.slaveStep]
    split
    · exact arrive rfl (.inl rfl) rfl
    · rfl

/-! #### Every move -/

theorem negotiateStep (d : Device) (p : NegPoint) : Upholds d (d.negotiateStep p) := by
  have m := d.negotiateStep_move p
  generalize d.negotiateStep p = d' at m ⊢
  cases m with
  | hold => exact edit rfl rfl rfl
  | listen | sample | ping | decide | collide => exact arrive rfl (.inl rfl) rfl

theorem seqStep (d : Device) : Upholds d d.seqStep := by
  unfold Device.seqStep
  cases hs : d.seq with
  | idle => exact slaveStart d
  | negotiating p => exact negotiateStep d p
  | replicating tw p => exact replicateStep hs
  | checksumming c => exact checksumStep hs
  | slaveFrame f => exact slaveStep hs

theorem flashStep (d : Device) (ok : Bool) (content : List Byte) : Upholds d (d.flashStep ok content) := by
  have answered : (d.flashStep ok content).flashReq = none := by
    unfold Device.flashStep
    split
    · assumption
    all_goals rfl
  rw [Device.flashStep_eq, answered]
  exact ⟨fun _ => nofun, fun h => ⟨h.loop, h.register⟩⟩

theorem move (m : DeviceMove d d') : Upholds d d' := by
  cases m with
  | same => rfl
  | startStream off len =>
    unfold Device.bitsStartEffect
    split <;> exact edit rfl rfl rfl
  | negotiate | replicate => exact arrive rfl (.inl rfl) rfl
  | checksum b => exact read rfl rfl (fun _ => checksumStart_bounded _) rfl
  | seq => exact seqStep d
  | flash ok content => exact flashStep d ok content
  | reset draw => exact ⟨fun _ => nofun, fun _ => ⟨nofun, (SumInv.fresh d.params).register⟩⟩
  | eccVerify r => rw [Device.eccVerifyEffect_eq]; exact edit rfl rfl rfl
  | adc x => rw [Device.adcStep_eq]; exact edit rfl rfl rfl
  | timer => rw [Device.timerStep_eq]; exact edit rfl rfl rfl
  | receive x => rw [Device.receive_eq]; exact edit rfl rfl rfl
  | book => rw [Device.bookStep_eq]; exact edit rfl rfl rfl
  | error | eccGen | startCycle | swap | readData | readError | window | eccCode | clearErr | transmit | pin =>
    exact edit rfl rfl rfl

end Device.Upholds

/-- Settles O57: a move asks for no program, or for that of a paragraph whose spare was just written. -/
theorem stepKeepsProgramsCoded : Obligations.StepKeepsProgramsCoded :=
  fun s t hs h => step_keeps_each (fun _ _ m => (Device.Upholds.move m).coded) s t h hs

/-- Settles O58: a turn adds at most 255 for each data byte of its paragraph. -/
theorem stepKeepsSumsBounded : Obligations.StepKeepsSumsBounded :=
  fun s t hs h => step_keeps_each (fun _ _ m => (Device.Upholds.move m).sums) s t h hs

end Sys2Proof.Machine
end

section
/-! ### TWIN_REPLICATE and BLOCK_CHECKSUM to their first await (43_twin_replication.md R260, R272) -/

namespace Sys2Proof.Machine

theorem Device.roleError_of_role {d : Device} (h : d.conn = .single ∨ d.conn = .twinnedMaster) : d.roleError = none :=
  if_pos h

theorem Device.roleError_of_other {d : Device} (h : ¬ (d.conn = .single ∨ d.conn = .twinnedMaster)) :
    d.roleError = some .role :=
  if_neg h

theorem exec_twinReplicate_of_role {s : State} (hs : s.dev.seq = .idle)
    (h : s.dev.conn = .single ∨ s.dev.conn = .twinnedMaster) :
    exec .twinReplicate s = .next (s.withDev s.dev.replicateEffect) := by
  have arm : exec .twinReplicate s =
      .next (s.withDev (s.dev.issue true s.dev.roleError s.dev.replicateEffect)) := rfl
  rw [arm, Device.roleError_of_role h, Device.issue_of_clear (Device.busy_of_seq_idle hs)]

theorem exec_twinReplicate_of_other {s : State} (hs : s.dev.seq = .idle)
    (h : ¬ (s.dev.conn = .single ∨ s.dev.conn = .twinnedMaster)) :
    exec .twinReplicate s = .next (s.withErr 0x008) := by
  have arm : exec .twinReplicate s =
      .next (s.withDev (s.dev.issue true s.dev.roleError s.dev.replicateEffect)) := rfl
  rw [arm, Device.roleError_of_other h, Device.issue_of_ownError (Device.busy_of_seq_idle hs)]
  rfl

theorem Device.replicateEffect_of_single {d : Device} (h : d.conn = .single) :
    d.replicateEffect = { d with
      bookReq := some (.flagIsSet .randomDataFinished), bookResult := none,
      seq := .replicating false .checkFinished } := by
  have role : decide (d.conn = .twinnedMaster) = false := by rw [h]; rfl
  simp only [replicateEffect, role]
  rfl

theorem Device.replicateEffect_of_master {d : Device} (h : d.conn = .twinnedMaster) :
    d.replicateEffect = { d with
      rxq := [], bookReq := some (.flagIsSet .randomDataFinished), bookResult := none,
      seq := .replicating true .checkFinished } := by
  have role : decide (d.conn = .twinnedMaster) = true := by rw [h]; rfl
  simp only [replicateEffect, role]
  rfl

/-- Settles O15: the two roles of a run, and the others refused. -/
theorem twinReplicateStartsTheRun : Obligations.TwinReplicateStartsTheRun := by
  refine fun s hs => ⟨fun single => ?_, fun master => ?_, fun other => ?_⟩
  · rw [exec_twinReplicate_of_role hs (.inl single), Device.replicateEffect_of_single single]
    rfl
  · rw [exec_twinReplicate_of_role hs (.inr master), Device.replicateEffect_of_master master]
    rfl
  · refine exec_twinReplicate_of_other hs ?_
    rcases other with h | h | h <;> rw [h] <;> decide

theorem exec_blockChecksum {s : State} (hs : s.dev.seq = .idle) {b : Half} (h1 : 1 ≤ b.toNat)
    (hn : b.toNat < s.dev.params.blockCount) :
    exec (.blockChecksum b) s = .next (s.withDev (s.dev.blockChecksumEffect b)) := by
  have arm : exec (.blockChecksum b) s =
      .next (s.withDev (s.dev.issue (s.dev.validBlock b.toNat) none (s.dev.blockChecksumEffect b))) := rfl
  have valid : s.dev.validBlock b.toNat = true := by simp [Device.validBlock, h1, hn]
  rw [arm, valid, Device.issue_of_clear (Device.busy_of_seq_idle hs)]

/-- Settles O16: the effect up to its first await, or the block is out of range. -/
theorem blockChecksumStartsAtTheFirstParagraph : Obligations.BlockChecksumStartsAtTheFirstParagraph := by
  refine fun b s hs => ⟨fun ⟨h1, hn⟩ => exec_blockChecksum hs h1 hn, fun invalid => ?_⟩
  refine exec_of_badArg nofun hs ?_
  rcases invalid with rfl | h
  · rfl
  · simp [Device.inRange, Device.validBlock, h]

end Sys2Proof.Machine
end

section
/-! ### The steps of a run (43_twin_replication.md R260 to R269) -/

namespace Sys2Proof.Machine

/-! #### The frames a run sends -/

theorem byteAt_ofNat_zero (b : Nat) : byteAt (BitVec.ofNat 16 b) 0 = BitVec.ofNat 8 b := by
  apply BitVec.eq_of_toNat_eq
  simp only [byteAt, BitVec.extractLsb'_toNat, BitVec.toNat_ofNat, Nat.shiftRight_zero, Nat.mul_zero]
  omega

theorem byteAt_ofNat_one (b : Nat) : byteAt (BitVec.ofNat 16 b) 1 = BitVec.ofNat 8 (b / 256) := by
  apply BitVec.eq_of_toNat_eq
  simp only [byteAt, BitVec.extractLsb'_toNat, BitVec.toNat_ofNat, Nat.shiftRight_eq_div_pow]
  omega

theorem map_lit_blockFrame (token : Byte) (b : Nat) :
    (blockFrame token b).map TxEntry.lit =
      [.lit token, .lit (BitVec.ofNat 8 b), .lit (BitVec.ofNat 8 (b / 256))] := by
  rw [blockFrame, bytesOf16, byteAt_ofNat_zero, byteAt_ofNat_one]
  rfl

theorem map_lit_dataHeader (b pg q : Nat) :
    (dataHeader b pg q).map TxEntry.lit =
      [.lit 0x44, .lit (BitVec.ofNat 8 b), .lit (BitVec.ofNat 8 (b / 256)), .lit (BitVec.ofNat 8 pg),
        .lit (BitVec.ofNat 8 q)] := by
  rw [dataHeader, List.map_append, map_lit_blockFrame]
  rfl

/-- In a run a SEQ step is the step of its await. -/
theorem act_seq_of_replicating {s : State} {tw : Bool} {p : RunPoint} {d : Device} (hs : s.dev.seq = .replicating tw p)
    (h : s.dev.replicateStep tw p = d) : act .seq s = .next (s.withDev d) := by
  rw [← h, act, Device.seqStep, hs]

namespace Device

variable {d : Device} {x : Byte} {rest : List Byte}

theorem sendMark_eq (d : Device) (tw : Bool) (b : Nat) (p : RunPoint) :
    d.sendMark tw b p = { d with
      txq := d.txq ++ [.lit 0x4D, .lit (BitVec.ofNat 8 b), .lit (BitVec.ofNat 8 (b / 256))],
      seq := .replicating tw p } := by
  rw [sendMark, send, map_lit_blockFrame]
  rfl

/-! #### The block loop -/

theorem enterBlock_of_lt (tw : Bool) {b : Nat} (h : b < d.params.blockCount) :
    d.enterBlock tw b = { d with
      curBlock := BitVec.ofNat 16 b, bookReq := some (.blockStatus b), bookResult := none,
      seq := .replicating tw (.status b) } :=
  if_pos h

theorem enterBlock_of_end (tw : Bool) {b : Nat} (h : ¬ b < d.params.blockCount) :
    d.enterBlock tw b = { d with
      bookReq := some (.setFlag .randomDataFinished), bookResult := none, seq := .replicating tw .finishing } :=
  if_neg h

/-- The next block's status is asked for, or after the last block the end is recorded (43_twin_replication.md R260,
R269). -/
theorem next_enterBlock (s : State) (d : Device) (tw : Bool) (b : Nat) :
    (Host.Outcome.next (s.withDev (d.enterBlock tw b)) : Host.Outcome State Fault Refusal) =
      if b < d.params.blockCount then .next { s with dev := { d with
        curBlock := BitVec.ofNat 16 b, bookReq := some (.blockStatus b), bookResult := none,
        seq := .replicating tw (.status b) } }
      else .next { s with dev := { d with
        bookReq := some (.setFlag .randomDataFinished), bookResult := none, seq := .replicating tw .finishing } } := by
  split
  · next h => rw [enterBlock_of_lt tw h]; rfl
  · next h => rw [enterBlock_of_end tw h]; rfl

theorem auditStart_twinned (d : Device) (b : Nat) (bad : Bool) :
    d.auditStart true b bad = { d with
      txq := d.txq ++ [.lit 0x43, .lit (BitVec.ofNat 8 b), .lit (BitVec.ofNat 8 (b / 256))],
      seq := .replicating true (.auditReply b bad) } := by
  rw [auditStart, if_pos rfl, send, map_lit_blockFrame]
  rfl

theorem auditStart_single_bad (d : Device) (b : Nat) :
    d.auditStart false b true = { d with
      bookReq := some (.markBad b), bookResult := none, seq := .replicating false (.localMark b) } := rfl

theorem auditStart_single_good (d : Device) (b : Nat) : d.auditStart false b false = d.enterBlock false (b + 1) := rfl

theorem afterPara_of_lt (d : Device) (tw : Bool) (b pg : Nat) {q : Nat} (bad : Bool) (h : q < 3) :
    d.afterPara tw b pg q bad = { d with seq := .replicating tw (.fill b pg (q + 1) bad) } := by
  rw [afterPara, nextPara_of_lt pg h]
  rfl

theorem afterPara_of_page (d : Device) (tw : Bool) (b : Nat) {pg q : Nat} (bad : Bool) (hq : ¬ q < 3) (h : pg < 63) :
    d.afterPara tw b pg q bad = { d with seq := .replicating tw (.fill b (pg + 1) 0 bad) } := by
  rw [afterPara, nextPara_of_page hq h]
  rfl

theorem afterPara_of_last (d : Device) (tw : Bool) (b : Nat) {pg q : Nat} (bad : Bool) (hq : ¬ q < 3) (h : ¬ pg < 63) :
    d.afterPara tw b pg q bad = d.auditStart tw b bad := by
  rw [afterPara, nextPara_of_last hq h]

/-! #### The awaited replies -/

theorem expect_of_match {t : Byte} {k : Device → Device} (h : d.rxq = t :: rest) :
    d.expect t k = k { d with rxq := rest } := by
  rw [expect, recv_of_cons h]
  exact if_pos rfl

/-- Any other byte aborts the run (43_twin_replication.md R268). -/
theorem expect_of_ne {t : Byte} {k : Device → Device} (h : d.rxq = x :: rest) (hx : x ≠ t) :
    d.expect t k = { d with rxq := rest }.abortRun := by
  rw [expect, recv_of_cons h]
  exact if_neg hx

theorem replicateStep_auditReply (tw : Bool) (b : Nat) (bad : Bool) (h : d.rxq = x :: rest) :
    d.replicateStep tw (.auditReply b bad) = { d with rxq := rest }.auditToken tw b bad x := by
  simp only [replicateStep, recv_of_cons h]

theorem replicateStep_auditSum (tw : Bool) (b : Nat) (bad : Bool) (got : List Byte) (h : d.rxq = x :: rest) :
    d.replicateStep tw (.auditSum b bad got) = { d with rxq := rest }.auditSumByte tw b bad got x := by
  simp only [replicateStep, recv_of_cons h]

theorem auditToken_of_sum (d : Device) (tw : Bool) (b : Nat) (bad : Bool) :
    d.auditToken tw b bad tokChksm = d.runTo tw (.auditSum b bad []) :=
  if_pos rfl

theorem auditToken_of_bad (d : Device) (tw : Bool) (b : Nat) (bad : Bool) :
    d.auditToken tw b bad tokChksmBad = d.auditLocal tw b bad none :=
  (if_neg (by decide)).trans (if_pos rfl)

theorem auditToken_of_ne (d : Device) (tw : Bool) (b : Nat) (bad : Bool) (h : x ≠ tokChksm) (h' : x ≠ tokChksmBad) :
    d.auditToken tw b bad x = d.abortRun :=
  (if_neg h).trans (if_neg h')

theorem auditSumByte_of_short (d : Device) (tw : Bool) (b : Nat) (bad : Bool) {got : List Byte} (x : Byte)
    (h : got.length < 3) : d.auditSumByte tw b bad got x = d.runTo tw (.auditSum b bad (got ++ [x])) := by
  unfold auditSumByte
  split
  · exact absurd h (by simp)
  · rfl

/-- A bad block is marked Bad whatever the two sums are (43_twin_replication.md R267). -/
theorem auditLocal_of_bad (d : Device) (tw : Bool) (b : Nat) (remote : Option Word) :
    d.auditLocal tw b true remote = d.runBook tw (.markBad b) (.auditMark b) := rfl

theorem auditLocal_of_good (d : Device) (tw : Bool) (b : Nat) (remote : Option Word) :
    d.auditLocal tw b false remote =
      d.runFlash tw (.read b 0 0) (.auditRead remote ⟨b, 0, 0, 0⟩) := rfl

/-- The block passes only on two equal sums (43_twin_replication.md R267). -/
theorem auditJudge_eq (d : Device) (tw : Bool) (b : Nat) (ok : Bool) (sum : Word) (remote : Option Word) :
    d.auditJudge tw b (if ok then some sum else none) remote =
      if ok = true ∧ remote = some sum then d.enterBlock tw (b + 1) else d.runBook tw (.markBad b) (.auditMark b) := by
  unfold auditJudge
  cases ok with
  | false => rfl
  | true =>
    cases remote with
    | none => rfl
    | some w => simp [eq_comm (a := w)]

theorem replicateStep_auditRead_more {tw : Bool} {remote : Option Word} {c c1 : ChecksumLoop} {r : FlashResult}
    {d1 : Device} (h : d.flashResult = some r) (ht : d.takeFlash.checksumTurn c r = (d1, .more c1)) :
    d.replicateStep tw (.auditRead remote c) = d1.runFlash tw c1.request (.auditRead remote c1) := by
  simp only [replicateStep, h, auditTurn, ht]

theorem replicateStep_auditRead_finished {tw : Bool} {remote : Option Word} {c : ChecksumLoop} {r : FlashResult}
    {d1 : Device} {ok : Bool} {sum : Word} (h : d.flashResult = some r)
    (ht : d.takeFlash.checksumTurn c r = (d1, .finished ok sum)) :
    d.replicateStep tw (.auditRead remote c) = d1.auditJudge tw c.b (if ok then some sum else none) remote := by
  simp only [replicateStep, h, auditTurn, ht]

end Device

/-! #### The obligations -/

/-- Settles O33: each flag's answer at its await, and the stream the first block waits for. -/
theorem runStartFollowsTheFlags : Obligations.RunStartFollowsTheFlags := by
  refine fun s tw => ⟨fun hs => ⟨fun hb => ?finished, fun hb => ?unfinished⟩,
    fun hs => ⟨fun hb => ?started, fun hb => ?unstarted⟩, fun hs hb => ?marked,
    fun hs => ⟨fun streaming => ?wait, fun quiet many => ?first⟩⟩
  case finished | unfinished | started | unstarted | marked =>
    exact act_seq_of_replicating hs (by rw [Device.replicateStep, hb]; rfl)
  case wait => exact act_seq_of_replicating hs (by rw [Device.replicateStep, if_pos streaming])
  case first =>
    refine act_seq_of_replicating hs ?_
    rw [Device.replicateStep, quiet, if_neg Bool.false_ne_true]
    exact Device.enterBlock_of_lt tw many

/-- Settles O34: a block by its status, an erase by its answer, and the end of the run. -/
theorem blockLoopSkipsBadBlocks : Obligations.BlockLoopSkipsBadBlocks := by
  refine fun s tw b => ⟨fun hs => ⟨fun st hb hst => ?erase, fun hb ht => ?announce, fun hb ht more => ?skip,
    fun hb ht last => ?last⟩, fun r hs hr => ?erased, fun hs hb => ?finish⟩
  case erase =>
    refine act_seq_of_replicating hs ?_
    cases st with
    | bad => exact absurd rfl hst
    | unused | used => rw [Device.replicateStep, hb]; rfl
  case announce =>
    subst ht
    refine act_seq_of_replicating hs ?_
    rw [Device.replicateStep, hb]
    exact Device.sendMark_eq _ _ _ _
  case skip =>
    subst ht
    refine act_seq_of_replicating hs ?_
    rw [Device.replicateStep, hb]
    exact Device.enterBlock_of_lt (d := s.dev.takeBook) false more
  case last =>
    subst ht
    refine act_seq_of_replicating hs ?_
    rw [Device.replicateStep, hb]
    exact Device.enterBlock_of_end (d := s.dev.takeBook) false (by simp [last])
  case erased => exact act_seq_of_replicating hs (by rw [Device.replicateStep, hr]; rfl)
  case finish => exact act_seq_of_replicating hs (by rw [Device.replicateStep, hb]; rfl)

/-- Settles O36: the next paragraph by its number, the audit after the last one. -/
theorem paragraphsGoInOrderToTheAudit : Obligations.ParagraphsGoInOrderToTheAudit := by
  intro s b pg q
  refine ⟨fun r hs hr => ?twinned, fun r hs hr => ?single, fun hs hb => ?marked, fun bad rest hs hq => ?acked⟩
  case twinned => exact act_seq_of_replicating hs (by rw [Device.replicateStep, hr]; rfl)
  case single =>
    have acts : act .seq s = .next (s.withDev (s.dev.takeFlash.afterPara false b pg q (!r.ok))) :=
      act_seq_of_replicating hs (by rw [Device.replicateStep, hr]; rfl)
    rw [acts]
    refine ⟨fun hq => ?_, fun hq hp => ?_, fun hq hp bad => ?_, fun hq hp good => ?_⟩
    · rw [Device.afterPara_of_lt _ _ _ _ _ hq]; rfl
    · rw [Device.afterPara_of_page _ _ _ _ (by omega) hp]; rfl
    · rw [Device.afterPara_of_last _ _ _ _ (by omega) (by omega), bad]; rfl
    · rw [Device.afterPara_of_last _ _ _ _ (by omega) (by omega), good]
      exact Device.next_enterBlock s s.dev.takeFlash false (b + 1)
  case marked =>
    have acts : act .seq s = .next (s.withDev (s.dev.takeBook.enterBlock false (b + 1))) :=
      act_seq_of_replicating hs (by rw [Device.replicateStep, hb])
    exact acts.trans (Device.next_enterBlock s s.dev.takeBook false (b + 1))
  case acked =>
    have acts : act .seq s = .next (s.withDev ({ s.dev with rxq := rest }.afterPara true b pg q bad)) :=
      act_seq_of_replicating hs (Device.expect_of_match hq)
    rw [acts]
    refine ⟨fun hq => ?_, fun hq hp => ?_, fun hq hp => ?_⟩
    · rw [Device.afterPara_of_lt _ _ _ _ _ hq]; rfl
    · rw [Device.afterPara_of_page _ _ _ _ (by omega) hp]; rfl
    · rw [Device.afterPara_of_last _ _ _ _ (by omega) (by omega), Device.auditStart_twinned]; rfl

/-- Settles O37: at each of the four awaits of a reply. -/
theorem unexpectedReplyAborts : Obligations.UnexpectedReplyAborts := by
  intro s tw p x rest hs hq unexpected
  refine act_seq_of_replicating (d := { s.dev with rxq := rest }.abortRun) hs ?_
  rcases unexpected with ⟨b, rfl | rfl, hx⟩ | ⟨b, pg, q, bad, rfl, hx⟩ | ⟨b, bad, rfl, hx, hx'⟩
  · exact Device.expect_of_ne hq hx
  · exact Device.expect_of_ne hq hx
  · exact Device.expect_of_ne hq hx
  · exact (Device.replicateStep_auditReply tw b bad hq).trans (Device.auditToken_of_ne _ tw b bad hx hx')

/-- Settles O38: the reply's bytes, the master's own checksum, the decision, and the mark's acknowledge. -/
theorem auditMarksDifferingBlocks : Obligations.AuditMarksDifferingBlocks := by
  intro s b
  refine ⟨fun bad rest hs hq => ?token, fun bad got x rest hs short hq => ?byte, fun s0 s1 s2 x rest hs hq => ?sumBad,
    fun s0 s1 s2 x rest hs hq => ?sumGood, fun rest hs hq => ?noSum, fun rest hs hq => ?noSumBad,
    fun remote c r d c1 hs hr ht => ?more, fun remote c r d ok total hs hr hb ht => ?judge, fun hs hb => ?mark,
    fun p rest hp hs hq => ?acked⟩
  case token =>
    exact act_seq_of_replicating hs
      ((Device.replicateStep_auditReply true b bad hq).trans (Device.auditToken_of_sum _ _ _ _))
  case byte =>
    exact act_seq_of_replicating hs
      ((Device.replicateStep_auditSum true b bad got hq).trans (Device.auditSumByte_of_short _ _ _ _ x short))
  case sumBad =>
    exact act_seq_of_replicating hs
      ((Device.replicateStep_auditSum true b true _ hq).trans (Device.auditLocal_of_bad _ _ _ _))
  case sumGood =>
    exact act_seq_of_replicating hs
      ((Device.replicateStep_auditSum true b false _ hq).trans (Device.auditLocal_of_good _ _ _ _))
  case noSum =>
    exact act_seq_of_replicating hs
      ((Device.replicateStep_auditReply true b false hq).trans (Device.auditToken_of_bad _ _ _ _))
  case noSumBad =>
    exact act_seq_of_replicating hs
      ((Device.replicateStep_auditReply true b true hq).trans (Device.auditToken_of_bad _ _ _ _))
  case more => exact act_seq_of_replicating hs (Device.replicateStep_auditRead_more hr ht)
  case judge =>
    rw [act_seq_of_replicating hs (Device.replicateStep_auditRead_finished hr ht), Device.auditJudge_eq, hb]
    split
    · exact Device.next_enterBlock s d true (b + 1)
    · rfl
  case mark =>
    refine act_seq_of_replicating hs ?_
    rw [Device.replicateStep, hb]
    exact Device.sendMark_eq _ _ _ _
  case acked =>
    have step : s.dev.replicateStep true p = { s.dev with rxq := rest }.enterBlock true (b + 1) := by
      rcases hp with rfl | rfl <;> exact Device.expect_of_match hq
    rw [act_seq_of_replicating hs step]
    exact Device.next_enterBlock s { s.dev with rxq := rest } true (b + 1)

end Sys2Proof.Machine
end

section
/-! ### One paragraph of a run (43_twin_replication.md R264 to R267) -/

namespace Sys2Proof.Machine

namespace Device

/-- The roles exchanged, the stream restarted into the other buffer, and the spare written (43_twin_replication.md
R265). -/
def spared (d : Device) : Device := (d.swapBuffers.startStream 0 512).writeSpare

/-- The frame goes by reference (43_twin_replication.md R265). -/
theorem sendPara_eq (d : Device) (tw : Bool) (b pg q : Nat) :
    d.sendPara tw b pg q = { d with
      txq := if tw then d.txq ++ ([.lit 0x44, .lit (BitVec.ofNat 8 b), .lit (BitVec.ofNat 8 (b / 256)),
        .lit (BitVec.ofNat 8 pg), .lit (BitVec.ofNat 8 q)] ++ (List.range 512).map (fun i => .ref d.sel i))
        else d.txq } := by
  cases tw with
  | false => rfl
  | true =>
    have sent : d.sendPara true b pg q = { d with
        txq := d.txq ++ (dataHeader b pg q).map TxEntry.lit ++ (List.range 512).map (TxEntry.ref d.sel) } := rfl
    rw [sent, map_lit_dataHeader, List.append_assoc]
    rfl

theorem paraReady_of_good (d : Device) (tw : Bool) (b pg q : Nat) :
    d.paraReady tw b pg q false =
      (d.spared.sendPara tw b pg q).runFlash tw (.program b pg q (d.spared.bufPara (!d.sel)))
        (.programming b pg q) := by
  have unchanged : (d.spared.sendPara tw b pg q).bufPara (d.spared.sendPara tw b pg q).sel =
      d.spared.bufPara (!d.sel) := by
    rw [sendPara_eq]
    rfl
  rw [← unchanged]
  rfl

/-- The paragraph of a bad block goes on without a program (43_twin_replication.md R264, R265). -/
theorem paraReady_of_bad (d : Device) (tw : Bool) (b pg q : Nat) :
    d.paraReady tw b pg q true = (d.spared.sendPara tw b pg q).afterProgram tw b pg q true := rfl

theorem afterProgram_twinned (d : Device) (b pg q : Nat) (bad : Bool) :
    d.afterProgram true b pg q bad = { d with seq := .replicating true (.dataAck b pg q bad) } := rfl

theorem afterProgram_single (d : Device) (b pg q : Nat) (bad : Bool) :
    d.afterProgram false b pg q bad = d.afterPara false b pg q bad := rfl

/-- After the last paragraph of a bad block that has no twin it is marked Bad; any other bad paragraph goes on
(43_twin_replication.md R265, R267). -/
theorem afterProgram_of_bad (d : Device) (tw : Bool) (b pg q : Nat) :
    d.afterProgram tw b pg q true = { d with
      bookReq := if tw = false ∧ ¬ (q < 3 ∨ pg < 63) then some (.markBad b) else d.bookReq,
      bookResult := if tw = false ∧ ¬ (q < 3 ∨ pg < 63) then none else d.bookResult,
      seq := .replicating tw (
        if tw then .dataAck b pg q true
        else if q < 3 then .fill b pg (q + 1) true
        else if pg < 63 then .fill b (pg + 1) 0 true
        else .localMark b) } := by
  cases tw with
  | true => simp [afterProgram_twinned]
  | false =>
    rw [afterProgram_single]
    by_cases hq : q < 3
    · simp [afterPara_of_lt d false b pg true hq, hq]
    · by_cases hp : pg < 63
      · simp [afterPara_of_page d false b true hq hp, hq, hp]
      · simp [afterPara_of_last d false b true hq hp, auditStart_single_bad, hq, hp]

/-- What a paragraph leaves in every field (43_twin_replication.md R265). -/
theorem paraReady_eq (d : Device) (tw : Bool) (b pg q : Nat) (bad : Bool) :
    d.paraReady tw b pg q bad = { d with
      buf := d.spared.buf, sel := !d.sel,
      soff := 0, srem := 512, streamActive := true, scount := 0, rngDone := false, rngArmed := true,
      txq := if tw then d.txq ++ ([.lit 0x44, .lit (BitVec.ofNat 8 b), .lit (BitVec.ofNat 8 (b / 256)),
        .lit (BitVec.ofNat 8 pg), .lit (BitVec.ofNat 8 q)] ++ (List.range 512).map (fun i => .ref (!d.sel) i))
        else d.txq,
      flashReq := if bad then d.flashReq else some (.program b pg q (d.spared.bufPara (!d.sel))),
      flashResult := if bad then d.flashResult else none,
      bookReq := if tw = false ∧ bad = true ∧ ¬ (q < 3 ∨ pg < 63) then some (.markBad b) else d.bookReq,
      bookResult := if tw = false ∧ bad = true ∧ ¬ (q < 3 ∨ pg < 63) then none else d.bookResult,
      seq := .replicating tw (
        if bad = false then .programming b pg q
        else if tw then .dataAck b pg q true
        else if q < 3 then .fill b pg (q + 1) true
        else if pg < 63 then .fill b (pg + 1) 0 true
        else .localMark b) } := by
  cases bad with
  | false =>
    simp only [paraReady_of_good, sendPara_eq, Bool.false_eq_true, false_and, and_false, if_false]
    rfl
  | true =>
    simp only [paraReady_of_bad, afterProgram_of_bad, sendPara_eq, true_and, if_true, Bool.true_eq_false, if_false]
    rfl

theorem bufByte_writeSpare_spare (d : Device) {i : Nat} (hi : i < 16) :
    d.writeSpare.bufByte d.sel (512 + i) = (spareImage (eccGen (d.bufData d.sel))).getD i 0 := by
  have offset : bufKey d.sel (512 + i) - bufKey d.sel 512 = i := by unfold bufKey; omega
  rw [bufByte, read_writeSpare, if_pos (by unfold bufKey; omega), offset]

theorem read_writeSpare_outside (d : Device) {a : Nat} (ha : ¬ (bufKey d.sel 512 ≤ a ∧ a < bufKey d.sel 528)) :
    Memory.read .buffers d.writeSpare.buf a = Memory.read .buffers d.buf a := by
  rw [read_writeSpare, if_neg ha]

theorem bufPara_spared (d : Device) :
    d.spared.bufPara (!d.sel) =
      (List.range 512).map (fun i => d.bufByte (!d.sel) i) ++ spareImage (eccGen (d.bufData (!d.sel))) :=
  bufPara_writeSpare (d.swapBuffers.startStream 0 512)

end Device

/-- Settles O35: the whole device after a paragraph, and its buffers byte by byte. -/
theorem paragraphSwapsSendsAndPrograms : Obligations.ParagraphSwapsSendsAndPrograms := by
  intro s tw b pg q bad hs
  refine ⟨fun streaming => ?wait, fun quiet => ⟨s.withDev (s.dev.paraReady tw b pg q bad), ?step, ?_⟩⟩
  case wait => exact act_seq_of_replicating hs (by rw [Device.replicateStep, if_pos streaming])
  case step => exact act_seq_of_replicating hs (by rw [Device.replicateStep, quiet, if_neg Bool.false_ne_true])
  intro p code marks
  have ready := s.dev.paraReady_eq tw b pg q bad
  have buf : (s.dev.paraReady tw b pg q bad).buf = s.dev.spared.buf := by rw [ready]
  rw [Device.bufPara_spared, ← buf] at ready
  refine ⟨congrArg s.withDev ready, fun i hi => ?data, fun i hi => ?spare, fun a ha => ?frame⟩
  all_goals simp only [State.withDev_dev, Device.bufByte, buf]
  case data => exact (s.dev.swapBuffers.startStream 0 512).bufByte_writeSpare i hi
  case spare => exact (s.dev.swapBuffers.startStream 0 512).bufByte_writeSpare_spare hi
  case frame => exact (s.dev.swapBuffers.startStream 0 512).read_writeSpare_outside ha

end Sys2Proof.Machine
end

section
/-! ### What a turn of a checksum leaves and adds (43_twin_replication.md R270, R272) -/

namespace Sys2Proof.Machine

/-- The data bytes of a read paragraph. -/
def FlashResult.data (r : FlashResult) : Nat → Byte := fun i => r.bytes.getD i 0

/-- The code in the spare of a read paragraph (20_memory.md R87). -/
def FlashResult.code (r : FlashResult) : Word :=
  r.bytes.getD 519 0 ++ r.bytes.getD 518 0 ++ r.bytes.getD 517 0 ++ r.bytes.getD 516 0

/-- What verifying a read paragraph against its own spare gives (43_twin_replication.md R270). -/
def FlashResult.verified (r : FlashResult) : VerifyResult := eccVerify r.data r.code

theorem eccSyndrome_congr {f g : Nat → Byte} (code : Word) (h : ∀ i < 512, f i = g i) :
    eccSyndrome f code = eccSyndrome g code := by
  rw [eccSyndrome, eccGen_congr h, eccSyndrome]

theorem eccVerify_data_congr {f g : Nat → Byte} (code : Word) (h : ∀ i < 512, f i = g i) {i : Nat} (hi : i < 512) :
    (eccVerify f code).data i = (eccVerify g code).data i := by
  have res := eccVerify_res_congr code h
  by_cases hc : (eccVerify g code).res = .corrected
  · rw [eccVerify_data_of_corrected hc, eccVerify_data_of_corrected (res.trans hc), eccSyndrome_congr code h, flipBit,
      flipBit, h i hi]
  · rw [eccVerify_data_of_ne hc, eccVerify_data_of_ne (by rwa [res]), h i hi]

namespace Device

section

variable (d : Device) {r : FlashResult} (hl : r.bytes.length = 528)

include hl

theorem read_loaded (a : Nat) :
    Memory.read .buffers (d.loaded r).buf a =
      if bufKey d.sel 0 ≤ a ∧ a < bufKey d.sel 528 then r.bytes.getD (a - bufKey d.sel 0) 0
      else Memory.read .buffers d.buf a := by
  have whole : r.bytes.take 528 = r.bytes := by rw [← hl, List.take_length]
  have stop : bufKey d.sel 528 = bufKey d.sel 0 + r.bytes.length := by
    rw [hl]
    unfold bufKey
    omega
  rw [stop, loaded, whole]
  exact Memory.read_writeBytes _ _ _ _ _

theorem bufByte_loaded {i : Nat} (hi : i < 528) : (d.loaded r).bufByte d.sel i = r.bytes.getD i 0 := by
  have offset : bufKey d.sel i - bufKey d.sel 0 = i := by unfold bufKey; omega
  rw [bufByte, d.read_loaded hl, if_pos (by unfold bufKey; omega), offset]

theorem storedCode_loaded : (d.loaded r).storedCode d.sel = r.code := by
  rw [storedCode, d.bufByte_loaded hl (by omega), d.bufByte_loaded hl (by omega), d.bufByte_loaded hl (by omega),
    d.bufByte_loaded hl (by omega)]
  rfl

theorem readSyn_eq : d.readSyn r = eccSyndrome r.data r.code := by
  rw [readSyn, d.storedCode_loaded hl]
  exact eccSyndrome_congr _ fun i hi => d.bufByte_loaded hl (by omega)

theorem eccDispatch_readSyn : eccDispatch (d.readSyn r) = r.verified.res := by
  rw [d.readSyn_eq hl]
  rfl

/-- The nand buffer keeps the corrected data (43_twin_replication.md R270). -/
theorem bufByte_corrected {i : Nat} (hi : i < 512) : (d.corrected r).bufByte d.sel i = r.verified.data i := by
  rw [corrected, readSyn, d.storedCode_loaded hl, bufByte_correctBuf]
  exact eccVerify_data_congr _ (fun i hi => d.bufByte_loaded hl (by omega)) hi

theorem bufByte_corrected_spare {i : Nat} (hi : i < 16) :
    (d.corrected r).bufByte d.sel (512 + i) = r.bytes.getD (512 + i) 0 := by
  have data : ¬ bufKey d.sel (512 + i) = bufKey d.sel (synByte (d.readSyn r)) := by
    have := synByte_lt (d.readSyn r)
    unfold bufKey
    omega
  rw [corrected, bufByte, read_correctBuf, if_neg fun h => data h.2]
  exact d.bufByte_loaded hl (by omega)

/-- A turn writes the nand buffer alone (43_twin_replication.md R270). -/
theorem read_corrected_outside {a : Nat} (ha : ¬ (bufKey d.sel 0 ≤ a ∧ a < bufKey d.sel 528)) :
    Memory.read .buffers (d.corrected r).buf a = Memory.read .buffers d.buf a := by
  have data : ¬ a = bufKey d.sel (synByte (d.readSyn r)) := by
    have := synByte_lt (d.readSyn r)
    unfold bufKey at ha ⊢
    omega
  rw [corrected, read_correctBuf, if_neg fun h => data h.2, d.read_loaded hl, if_neg ha]

theorem addData_corrected (sum : Word) :
    (d.corrected r).addData d.sel sum =
      (List.range 512).foldl (fun acc i => acc + (r.verified.data i).setWidth 32) sum :=
  List.foldl_ext _ _ _ fun acc i hi => by rw [d.bufByte_corrected hl (List.mem_range.mp hi)]

/-- A turn on a paragraph that was read (43_twin_replication.md R270). -/
theorem checksumTurn_eq (c : ChecksumLoop) (hr : r.ok = true) :
    d.checksumTurn c r = (d.corrected r,
      if r.verified.res = .uncorrectable then .finished false c.sum
      else c.advance ((List.range 512).foldl (fun acc i => acc + (r.verified.data i).setWidth 32) c.sum)) := by
  rw [checksumTurn_of_read d c hr, d.eccDispatch_readSyn hl, d.addData_corrected hl]

end

variable {d d1 : Device} {c c1 : ChecksumLoop} {r : FlashResult} {ok : Bool} {sum : Word}

theorem checksumStep_more (h : d.flashResult = some r) (ht : d.takeFlash.checksumTurn c r = (d1, .more c1)) :
    d.checksumStep c = { d1 with
      flashReq := some (.read c1.b c1.pg c1.q), flashResult := none, seq := .checksumming c1 } := by
  simp only [checksumStep, h, ht]
  rfl

theorem checksumStep_finished (h : d.flashResult = some r)
    (ht : d.takeFlash.checksumTurn c r = (d1, .finished ok sum)) :
    d.checksumStep c = { d1 with chksum := sum, chkOk := ok, seq := .idle } := by
  simp only [checksumStep, h, ht]

theorem checksumStep_buf (h : d.flashResult = some r) :
    (d.checksumStep c).buf = (d.takeFlash.checksumTurn c r).1.buf := by
  rcases ht : d.takeFlash.checksumTurn c r with ⟨d1, c1 | ⟨ok, sum⟩⟩
  · rw [checksumStep_more h ht]
  · rw [checksumStep_finished h ht]

end Device

/-- In a block checksum a SEQ step is the step of its await. -/
theorem act_seq_of_checksumming {s : State} {c : ChecksumLoop} {d : Device} (hs : s.dev.seq = .checksumming c)
    (h : s.dev.checksumStep c = d) : act .seq s = .next (s.withDev d) := by
  rw [← h, act, Device.seqStep, hs]

/-- Settles O39: a turn by its read, its verification and its place in the block, then BLOCK_CHECKSUM's step on it. -/
theorem checksumAddsCorrectedData : Obligations.ChecksumAddsCorrectedData := by
  refine ⟨fun d c r => ⟨fun hr => ?failed, fun hr hl => ?read⟩, fun s c r hs hx => ⟨fun hr => ?stepFailed,
    fun hr hl => ?stepRead⟩⟩
  case failed => exact d.checksumTurn_of_failed c hr
  case read =>
    have turn := d.checksumTurn_eq hl c hr
    rw [ChecksumLoop.advance_eq] at turn
    exact ⟨d.corrected r, d.corrected_eq r, fun i => d.bufByte_corrected hl, fun i => d.bufByte_corrected_spare hl,
      fun a => d.read_corrected_outside hl, turn⟩
  case stepFailed =>
    exact act_seq_of_checksumming hs (Device.checksumStep_finished hx (Device.checksumTurn_of_failed _ c hr))
  case stepRead =>
    intro v total
    have turn : s.dev.takeFlash.checksumTurn c r = (s.dev.takeFlash.corrected r,
        if v.res = .uncorrectable then .finished false c.sum else c.advance total) :=
      s.dev.takeFlash.checksumTurn_eq hl c hr
    have buf : (s.dev.checksumStep c).buf = (s.dev.takeFlash.corrected r).buf := by
      rw [Device.checksumStep_buf hx, turn]
    have edit := s.dev.takeFlash.corrected_eq r
    rw [← buf] at edit
    refine ⟨_, act_seq_of_checksumming hs rfl, fun i hi => ?data, fun i hi => ?other, fun bad => ?_,
      fun good hq hp => ?_, fun good hq => ?_, fun good hq hp => ?_⟩
    case data =>
      rw [State.withDev_dev, Device.bufByte, buf]
      exact s.dev.takeFlash.bufByte_corrected hl hi
    case other =>
      rw [State.withDev_dev, Device.bufByte, buf]
      refine s.dev.takeFlash.read_corrected_outside hl ?_
      cases hsel : s.dev.sel <;> simp [Device.takeFlash, hsel, bufKey]; omega
    · rw [if_pos bad, edit] at turn
      exact congrArg s.withDev (Device.checksumStep_finished hx turn)
    all_goals rw [if_neg good, ChecksumLoop.advance_eq, edit] at turn
    · rw [if_neg (by omega), if_neg (by omega)] at turn
      exact congrArg s.withDev (Device.checksumStep_finished hx turn)
    · rw [if_pos hq] at turn
      exact congrArg s.withDev (Device.checksumStep_more hx turn)
    · rw [if_neg (by omega), if_pos hp] at turn
      exact congrArg s.withDev (Device.checksumStep_more hx turn)

end Sys2Proof.Machine
end

section
/-! ### The steps of a slave frame (43_twin_replication.md R277 to R283) -/

namespace Sys2Proof.Machine

/-- Idle, a SEQ step is the slave frame handler's. -/
theorem act_seq_of_idle {s : State} {d : Device} (hs : s.dev.seq = .idle) (h : s.dev.slaveStart = d) :
    act .seq s = .next (s.withDev d) := by
  rw [← h, act, Device.seqStep, hs]

/-- In a slave frame a SEQ step is the step of its await. -/
theorem act_seq_of_slaveFrame {s : State} {f : SlaveFrame} {d : Device} (hs : s.dev.seq = .slaveFrame f)
    (h : s.dev.slaveStep f = d) : act .seq s = .next (s.withDev d) := by
  rw [← h, act, Device.seqStep, hs]

/-- The frame with one byte more. -/
def SlaveFrame.push (f : SlaveFrame) (x : Byte) : SlaveFrame := { f with payload := f.payload ++ [x] }

namespace Device

variable {d : Device} {x : Byte} {rest : List Byte} {f : SlaveFrame}

/-! #### The first byte -/

theorem slaveStart_of_byte (hc : d.conn = .twinnedSlave) (hq : d.rxq = x :: rest) :
    d.slaveStart = { d with rxq := rest }.firstByte x := by
  rw [slaveStart, if_pos hc, recv_of_cons hq]

theorem firstByte_of_token (d : Device) (h : x = tokBeginData ∨ x = tokReqChksm ∨ x = tokMarkBlock) :
    d.firstByte x = { d with seq := .slaveFrame ⟨x, [], .payload⟩ } :=
  if_pos h

theorem firstByte_of_ping (d : Device) : d.firstByte tokPing = { d with txq := d.txq ++ [.lit tokAck] } :=
  (if_neg (by decide)).trans (if_pos rfl)

theorem firstByte_of_unknown (d : Device) (h : ¬ (x = tokBeginData ∨ x = tokReqChksm ∨ x = tokMarkBlock))
    (hp : x ≠ tokPing) : d.firstByte x = d.raise .protocol :=
  (if_neg h).trans (if_neg hp)

/-! #### A payload byte -/

theorem slaveStep_payload {token : Byte} {payload : List Byte} (hq : d.rxq = x :: rest) :
    d.slaveStep ⟨token, payload, .payload⟩ = { d with rxq := rest }.payloadByte ⟨token, payload, .payload⟩ x := by
  simp only [slaveStep, recv_of_cons hq]

theorem payloadByte_of_more (d : Device) (x : Byte) (h : f.payload.length + 1 < payloadLength f.token) :
    d.payloadByte f x = { d with
      buf := (d.storePayload f x).buf, seq := .slaveFrame ⟨f.token, f.payload ++ [x], .payload⟩ } := by
  have short : ¬ payloadLength f.token ≤ (f.payload ++ [x]).length := by simpa using h
  rw [payloadByte, if_neg short, storePayload_eq]
  rfl

theorem payloadByte_of_last (d : Device) (x : Byte) (h : payloadLength f.token = f.payload.length + 1) :
    d.payloadByte f x = { d with buf := (d.storePayload f x).buf }.frameComplete (f.push x) := by
  have whole : payloadLength f.token ≤ (f.payload ++ [x]).length := by simp [h]
  rw [payloadByte, if_pos whole, ← storePayload_eq]
  rfl

/-- The byte of a frame other than BEGIN_DATA goes to no buffer (43_twin_replication.md R279). -/
theorem storePayload_of_other (d : Device) (x : Byte) (h : f.token ≠ tokBeginData) : d.storePayload f x = d :=
  if_neg fun hc => h hc.1

/-- The last data byte of BEGIN_DATA is NAND[511] (43_twin_replication.md R279). -/
theorem read_storePayload_last (d : Device) (x : Byte) (ht : f.token = tokBeginData) (hl : f.payload.length = 515)
    (a : Nat) :
    Memory.read .buffers (d.storePayload f x).buf a =
      if a = bufKey d.sel 511 then x else Memory.read .buffers d.buf a := by
  rw [read_storePayload, ht, hl]
  simp

/-! #### A whole frame -/

theorem validBlock_eq_false_iff (d : Device) (b : Nat) :
    d.validBlock b = false ↔ b = 0 ∨ d.params.blockCount ≤ b := by
  simp [validBlock, imp_iff_not_or]

theorem validBlock_of_range {b : Nat} (h1 : 1 ≤ b) (hn : b < d.params.blockCount) : d.validBlock b = true := by
  simp [validBlock, h1, hn]

theorem validAddr_of_range {b pg q : Nat} (h1 : 1 ≤ b) (hn : b < d.params.blockCount) (hp : pg ≤ 63) (hq : q ≤ 3) :
    d.validAddr b pg q = true := by
  simp [validAddr, validBlock_of_range h1 hn, hp, hq]

/-- A frame whose address is invalid is discarded (43_twin_replication.md R283). -/
theorem frameComplete_of_invalid (h : f.block = 0 ∨ d.params.blockCount ≤ f.block ∨
      (f.token = tokBeginData ∧ (63 < f.page ∨ 3 < f.para))) : d.frameComplete f = d.slaveDesync := by
  have block : ¬ f.token = tokBeginData → d.validBlock f.block = false := fun hf => by
    rw [validBlock_eq_false_iff]
    tauto
  have addr : d.validAddr f.block f.page f.para = false := by
    rw [validAddr]
    rcases h with h | h | ⟨_, h | h⟩ <;> simp [validBlock, h]
  unfold frameComplete
  split
  · rw [beginData, addr, if_neg Bool.false_ne_true]
  · next hf =>
    split
    · rw [reqChecksum, block hf, if_neg Bool.false_ne_true]
    · rw [markBlock, block hf, if_neg Bool.false_ne_true]

theorem frameComplete_reqChksm (ht : f.token = tokReqChksm) (h1 : 1 ≤ f.block) (hn : f.block < d.params.blockCount) :
    d.frameComplete f = d.slaveFlash f (.read f.block 0 0) (.checksum ⟨f.block, 0, 0, 0⟩) := by
  rw [frameComplete, ht, if_neg (by decide), if_pos rfl, reqChecksum, if_pos (validBlock_of_range h1 hn)]
  rfl

theorem frameComplete_markBlock (ht : f.token = tokMarkBlock) (h1 : 1 ≤ f.block) (hn : f.block < d.params.blockCount) :
    d.frameComplete f = d.slaveBook f (.markBad f.block) .marking := by
  rw [frameComplete, ht, if_neg (by decide), if_neg (by decide), markBlock, if_pos (validBlock_of_range h1 hn)]

theorem frameComplete_beginData (ht : f.token = tokBeginData) (h1 : 1 ≤ f.block) (hn : f.block < d.params.blockCount)
    (hp : f.page ≤ 63) (hq : f.para ≤ 3) :
    d.frameComplete f =
      if f.page = 0 ∧ f.para = 0 then d.slaveBook f (.flagIsSet .randomDataStarted) .checkStarted
      else d.slaveProgram f := by
  rw [frameComplete, if_pos ht, beginData, if_pos (validAddr_of_range h1 hn hp hq)]

/-- The slave programs the nand buffer's data with its code (43_twin_replication.md R266, R279). -/
theorem slaveProgram_eq (d : Device) (f : SlaveFrame) :
    d.slaveProgram f = { d with
      buf := d.writeSpare.buf,
      flashReq := some (.program f.block f.page f.para
        ((List.range 512).map (fun i => d.bufByte d.sel i) ++ spareImage (eccGen (d.bufData d.sel)))),
      flashResult := none, seq := .slaveFrame ⟨f.token, f.payload, .programming⟩ } := by
  have spare : d.writeSpare = { d with buf := d.writeSpare.buf } := rfl
  rw [slaveProgram, ← bufPara_writeSpare]
  generalize d.writeSpare = e at spare ⊢
  rw [spare]
  rfl

/-! #### The checksum of REQ_CHKSM -/

theorem slaveStep_checksum_more {token : Byte} {payload : List Byte} {c c1 : ChecksumLoop} {r : FlashResult}
    {d1 : Device} (h : d.flashResult = some r) (ht : d.takeFlash.checksumTurn c r = (d1, .more c1)) :
    d.slaveStep ⟨token, payload, .checksum c⟩ = { d1 with
      flashReq := some (.read c1.b c1.pg c1.q), flashResult := none,
      seq := .slaveFrame ⟨token, payload, .checksum c1⟩ } := by
  simp only [slaveStep, h, ht]
  rfl

theorem slaveStep_checksum_finished {token : Byte} {payload : List Byte} {c : ChecksumLoop} {r : FlashResult}
    {d1 : Device} {ok : Bool} {sum : Word} (h : d.flashResult = some r)
    (ht : d.takeFlash.checksumTurn c r = (d1, .finished ok sum)) :
    d.slaveStep ⟨token, payload, .checksum c⟩ = d1.checksumReply ok sum := by
  simp only [slaveStep, h, ht]

/-- The reply is CHKSM with the sum, or CHKSM_BAD (43_twin_replication.md R280). -/
theorem checksumReply_eq (d : Device) (ok : Bool) (sum : Word) :
    d.checksumReply ok sum = { d with
      seq := .idle,
      txq := d.txq ++ if ok then [.lit 0x63, .lit (sum.extractLsb' 0 8), .lit (sum.extractLsb' 8 8),
        .lit (sum.extractLsb' 16 8), .lit (sum.extractLsb' 24 8)] else [.lit 0x78] } := by
  cases ok <;> rfl

end Device

theorem SlaveFrame.getD_push {f : SlaveFrame} {x : Byte} {n : Nat} (h : n < f.payload.length) :
    (f.push x).payload.getD n 0 = f.payload.getD n 0 := by
  simp [push, List.getD_eq_getElem?_getD, List.getElem?_append, h]

theorem SlaveFrame.page_push {f : SlaveFrame} (x : Byte) (h : 2 < f.payload.length) : (f.push x).page = f.page := by
  rw [page, getD_push h, page]

theorem SlaveFrame.para_push {f : SlaveFrame} (x : Byte) (h : 3 < f.payload.length) : (f.push x).para = f.para := by
  rw [para, getD_push h, para]

/-- The device once the payload byte `x` of a frame has left RXQ for its place. -/
def Device.tookByte (d : Device) (f : SlaveFrame) (x : Byte) (rest : List Byte) : Device :=
  { d with rxq := rest, buf := (d.storePayload f x).buf }

theorem Device.tookByte_of_other (d : Device) {f : SlaveFrame} (x : Byte) (rest : List Byte)
    (h : f.token ≠ tokBeginData) : d.tookByte f x rest = { d with rxq := rest } := by
  rw [tookByte, storePayload_of_other d x h]

/-- The data of BEGIN_DATA with its last byte in place (43_twin_replication.md R279). -/
theorem Device.bufByte_tookByte_last (d : Device) {f : SlaveFrame} (x : Byte) (rest : List Byte)
    (ht : f.token = tokBeginData) (hl : f.payload.length = 515) (i : Nat) :
    (d.tookByte f x rest).bufByte d.sel i = if i = 511 then x else d.bufByte d.sel i := by
  refine (d.read_storePayload_last x ht hl _).trans ?_
  simp only [bufKey_eq_iff]
  rfl

section

variable {s : State} {f : SlaveFrame} {x : Byte} {rest : List Byte} (hs : s.dev.seq = .slaveFrame f)
  (hp : f.point = .payload) (hq : s.dev.rxq = x :: rest)

include hs hp hq

/-- The SEQ step that takes a frame's last byte (43_twin_replication.md R279 to R281). -/
theorem act_seq_of_last_byte (whole : payloadLength f.token = f.payload.length + 1) :
    act .seq s = .next (s.withDev ((s.dev.tookByte f x rest).frameComplete (f.push x))) := by
  obtain ⟨token, payload, point⟩ := f
  subst hp
  have stored : ({ s.dev with rxq := rest }.storePayload ⟨token, payload, .payload⟩ x).buf =
      (s.dev.storePayload ⟨token, payload, .payload⟩ x).buf := by
    unfold Device.storePayload
    split <;> rfl
  rw [act_seq_of_slaveFrame hs (Device.slaveStep_payload hq), Device.payloadByte_of_last _ x whole, stored]
  rfl

variable (h1 : 1 ≤ (f.push x).block) (hn : (f.push x).block < s.dev.params.blockCount)

include h1 hn

theorem act_seq_of_last_reqChksm (ht : f.token = tokReqChksm) (hl : f.payload.length = 1) :
    act .seq s = .next { s with dev := { s.dev with
      rxq := rest, flashReq := some (.read (f.push x).block 0 0), flashResult := none,
      seq := .slaveFrame { f.push x with point := .checksum ⟨(f.push x).block, 0, 0, 0⟩ } } } := by
  rw [act_seq_of_last_byte hs hp hq (by rw [ht, hl]; rfl),
    Device.frameComplete_reqChksm (d := s.dev.tookByte f x rest) (f := f.push x) ht h1 hn,
    Device.tookByte_of_other _ _ _ (by rw [ht]; decide)]
  rfl

theorem act_seq_of_last_markBlock (ht : f.token = tokMarkBlock) (hl : f.payload.length = 1) :
    act .seq s = .next { s with dev := { s.dev with
      rxq := rest, bookReq := some (.markBad (f.push x).block), bookResult := none,
      seq := .slaveFrame { f.push x with point := .marking } } } := by
  rw [act_seq_of_last_byte hs hp hq (by rw [ht, hl]; rfl),
    Device.frameComplete_markBlock (d := s.dev.tookByte f x rest) (f := f.push x) ht h1 hn,
    Device.tookByte_of_other _ _ _ (by rw [ht]; decide)]
  rfl

/-- The first paragraph of a block first asks for the start's flag, any other is programmed (43_twin_replication.md
R279). -/
theorem act_seq_of_last_beginData (ht : f.token = tokBeginData) (hl : f.payload.length = 515) (hpg : f.page ≤ 63)
    (hpa : f.para ≤ 3) :
    act .seq s = .next (s.withDev (
      if f.page = 0 ∧ f.para = 0 then
        (s.dev.tookByte f x rest).slaveBook (f.push x) (.flagIsSet .randomDataStarted) .checkStarted
      else (s.dev.tookByte f x rest).slaveProgram (f.push x))) := by
  have page : (f.push x).page = f.page := SlaveFrame.page_push x (by omega)
  have para : (f.push x).para = f.para := SlaveFrame.para_push x (by omega)
  rw [act_seq_of_last_byte hs hp hq (by rw [ht, hl]; rfl),
    Device.frameComplete_beginData (d := s.dev.tookByte f x rest) (f := f.push x) ht h1 hn (page ▸ hpg) (para ▸ hpa),
    page, para]

end

/-- Settles O41: the first byte by its kind, a payload byte by its place, the last one of an invalid frame. -/
theorem slaveAnswersPingAndDiscardsTheUnknown : Obligations.SlaveAnswersPingAndDiscardsTheUnknown := by
  refine ⟨fun s rest hc hs hq => ?ping, fun s x rest hc hs hq hx => ?token,
    fun s x rest hc hs hq h1 h2 h3 h4 => ?unknown,
    fun s token x payload rest hs hq last invalid => ?invalid, fun s token x payload rest hs hq more => ?byte⟩
  case ping =>
    exact act_seq_of_idle hs ((Device.slaveStart_of_byte hc hq).trans (Device.firstByte_of_ping _))
  case token =>
    exact act_seq_of_idle hs ((Device.slaveStart_of_byte hc hq).trans (Device.firstByte_of_token _ hx))
  case unknown =>
    have unknown : ¬ (x = tokBeginData ∨ x = tokReqChksm ∨ x = tokMarkBlock) := by
      rintro (h | h | h)
      · exact h1 h
      · exact h2 h
      · exact h3 h
    exact act_seq_of_idle hs ((Device.slaveStart_of_byte hc hq).trans (Device.firstByte_of_unknown _ unknown h4))
  case invalid =>
    have whole : payloadLength token = payload.length + 1 := by
      rcases last with ⟨rfl, hl⟩ | ⟨rfl | rfl, hl⟩ <;> rw [hl] <;> rfl
    have acts := act_seq_of_last_byte hs rfl hq whole
    rw [Device.frameComplete_of_invalid] at acts
    · refine ⟨_, acts, rfl, fun a => (Device.read_storePayload _ _ x a).trans ?_⟩
      rcases last with ⟨rfl, hl⟩ | ⟨rfl | rfl, hl⟩
      · simp [hl, tokBeginData]
      · simp [tokBeginData]
      · simp [tokBeginData]
    · rcases invalid with h | h | ⟨rfl, h⟩
      · exact .inl h
      · exact .inr (.inl h)
      · obtain ⟨_, hl⟩ | ⟨h' | h', _⟩ := last
        · refine .inr (.inr ⟨rfl, ?_⟩)
          rwa [SlaveFrame.page_push x (by simp [hl]), SlaveFrame.para_push x (by simp [hl])]
        · exact absurd h' (by decide)
        · exact absurd h' (by decide)
  case byte =>
    have more : payload.length + 1 < payloadLength token := by
      rcases more with ⟨rfl, hl⟩ | ⟨rfl | rfl, hl⟩
      · exact Nat.add_lt_of_lt_sub hl
      · exact Nat.add_lt_of_lt_sub hl
      · exact Nat.add_lt_of_lt_sub hl
    exact ⟨_, act_seq_of_slaveFrame hs ((Device.slaveStep_payload hq).trans (Device.payloadByte_of_more _ x more)), rfl,
      fun a => Device.read_storePayload _ _ x a⟩

/-- Settles O42: the last byte by the frame's token, then each answer at its await. -/
theorem slaveRepliesWhateverItsFlashReports : Obligations.SlaveRepliesWhateverItsFlashReports := by
  refine ⟨fun s token x payload rest hs hq => ?complete, fun s token payload => ?answers⟩
  case complete =>
    intro f b pg q h1 hn
    let g : SlaveFrame := ⟨token, payload, .payload⟩
    have low : 1 ≤ (g.push x).block := h1
    have high : (g.push x).block < s.dev.params.blockCount := hn
    refine ⟨fun ht hl => ?reqChksm, fun ht hl => ?markBlock, fun ht hl hp0 hq0 => ?first,
      fun ht hl hp3 hq3 hne => ?program⟩
    case reqChksm => exact act_seq_of_last_reqChksm hs rfl hq low high ht hl
    case markBlock => exact act_seq_of_last_markBlock hs rfl hq low high ht hl
    case first =>
      have acts := act_seq_of_last_beginData hs rfl hq low high ht hl (hp0.trans_le (Nat.zero_le _))
        (hq0.trans_le (Nat.zero_le _))
      rw [if_pos ⟨hp0, hq0⟩] at acts
      exact ⟨_, acts, rfl, fun a => s.dev.read_storePayload_last x ht hl a⟩
    case program =>
      have acts := act_seq_of_last_beginData hs rfl hq low high ht hl hp3 hq3
      rw [if_neg fun h => hne.elim (absurd h.1) (absurd h.2), Device.slaveProgram_eq] at acts
      refine ⟨_, acts, ?_⟩
      intro data spare
      let e := s.dev.tookByte g x rest
      have stored : (List.range 512).map (fun i => e.bufByte s.dev.sel i) = data :=
        List.map_congr_left fun i _ => s.dev.bufByte_tookByte_last x rest ht hl i
      have code : spareImage (eccGen (e.bufData s.dev.sel)) = spare := by
        have sent := eccGen_bufData e s.dev.sel []
        rw [List.append_nil, stored] at sent
        rw [← sent]
      have page : (g.push x).page = pg := SlaveFrame.page_push x (by simp [g, hl])
      have para : (g.push x).para = q := SlaveFrame.para_push x (by simp [g, hl])
      refine ⟨?state, fun i hi => ?spareBytes, fun a ha => ?frame⟩
      case state =>
        rw [page, para, ← stored, ← code]
        rfl
      case spareBytes =>
        rw [← code]
        exact e.bufByte_writeSpare_spare hi
      case frame => exact (e.read_writeSpare_outside ha).trans (s.dev.read_storePayload_last x ht hl a)
  case answers =>
    intro f b
    refine ⟨fun hs => ⟨fun hb => ?set, fun hb => ?unset⟩, fun hs hb => ?marked, fun r hs hr => ?erased,
      fun r hs hr => ?programmed, fun c r d c1 hs hr ht => ?more, fun c r d ok total hs hr ht => ?sum,
      fun hs hb => ?bad⟩
    case set | unset | marked | bad => exact act_seq_of_slaveFrame hs (by simp only [f, Device.slaveStep, hb]; rfl)
    case programmed => exact act_seq_of_slaveFrame hs (by simp only [f, Device.slaveStep, hr]; rfl)
    case erased =>
      have step : s.dev.slaveStep (f .erasing) = s.dev.takeFlash.slaveProgram (f .erasing) := by
        simp only [f, Device.slaveStep, hr]
      exact ⟨_, act_seq_of_slaveFrame hs (step.trans (Device.slaveProgram_eq _ _)), rfl,
        fun i hi => s.dev.takeFlash.bufByte_writeSpare_spare hi,
        fun a ha => s.dev.takeFlash.read_writeSpare_outside ha⟩
    case more => exact act_seq_of_slaveFrame hs (Device.slaveStep_checksum_more hr ht)
    case sum =>
      exact act_seq_of_slaveFrame hs
        ((Device.slaveStep_checksum_finished hr ht).trans (Device.checksumReply_eq d ok total))

end Sys2Proof.Machine
end

section
/-! ### BLOCK_CHECKSUM of an erased block (43_twin_replication.md R271, R272) -/

namespace Sys2Proof.Machine

theorem encode_blockChecksum (b : Half) : encode (.blockChecksum b) = 0x22000000 ||| b.setWidth 32 := by
  obtain ⟨_, _, _, _, _, _, _, _, _, _, _, _, words, _⟩ := commandWords
  exact words b

/-! #### An erased paragraph -/

theorem foldl_erased_bytes {f : Nat → Byte} {l : List Nat} (h : ∀ i ∈ l, f i = 0xFF) (sum : Word) :
    l.foldl (fun acc i => acc + (f i).setWidth 32) sum = sum + BitVec.ofNat 32 (255 * l.length) := by
  induction l generalizing sum with
  | nil => simp
  | cons i l ih =>
    have byte : (f i).setWidth 32 = BitVec.ofNat 32 255 := by
      rw [h i List.mem_cons_self]
      rfl
    have length : 255 * (i :: l).length = 255 + 255 * l.length := by rw [List.length_cons]; omega
    rw [List.foldl_cons, ih fun j hj => h j (List.mem_cons_of_mem i hj), byte, length, BitVec.ofNat_add,
      BitVec.add_assoc]

namespace FlashResult

variable {r : FlashResult} (h : ∀ i < 528, r.bytes.getD i 0 = 0xFF)

include h

theorem code_of_erased : r.code = 0xFFFFFFFF := by
  rw [code, h 519 (by decide), h 518 (by decide), h 517 (by decide), h 516 (by decide)]
  rfl

/-- An erased paragraph verifies without error (40_ecc.md R174). -/
theorem verified_of_erased : r.verified.res = .noError := by
  rw [verified, code_of_erased h]
  exact erasedAndZeroedParagraphs.2.1 _ fun i hi => h i (by omega)

theorem data_of_erased {i : Nat} (hi : i < 512) : r.verified.data i = 0xFF := by
  have res : (eccVerify r.data r.code).res ≠ .corrected := by
    rw [show (eccVerify r.data r.code).res = .noError from verified_of_erased h]
    nofun
  rw [verified, eccVerify_data_of_ne res]
  exact h i (by omega)

end FlashResult

namespace Device

/-- A turn on an erased paragraph adds 512 bytes of 0xFF (43_twin_replication.md R271). -/
theorem checksumTurn_of_erased (d : Device) (c : ChecksumLoop) {r : FlashResult} (hr : r.ok = true)
    (hl : r.bytes.length = 528) (h : ∀ i < 528, r.bytes.getD i 0 = 0xFF) :
    d.checksumTurn c r = (d.corrected r, c.advance (c.sum + 130560#32)) := by
  have good : ¬ r.verified.res = .uncorrectable := by
    rw [r.verified_of_erased h]
    nofun
  rw [d.checksumTurn_eq hl c hr, if_neg good,
    foldl_erased_bytes fun i hi => r.data_of_erased h (List.mem_range.mp hi), List.length_range]

theorem bufByte_corrected_of_erased (d : Device) {r : FlashResult} (hl : r.bytes.length = 528)
    (h : ∀ i < 528, r.bytes.getD i 0 = 0xFF) {i : Nat} (hi : i < 528) : (d.corrected r).bufByte d.sel i = 0xFF := by
  rcases Nat.lt_or_ge i 512 with data | spare
  · rw [d.bufByte_corrected hl data, r.data_of_erased h data]
  · obtain ⟨j, rfl⟩ := Nat.exists_eq_add_of_le spare
    rw [d.bufByte_corrected_spare hl (by omega), h _ hi]

/-! #### The paragraphs of a block by their number -/

/-- The device awaiting the read of paragraph `n` of an erased block `b`, with `buf` in the buffers. -/
def summing (d : Device) (b : Half) (n : Nat) (buf : List Host.Cell) : Device :=
  { d with
    buf := buf, curBlock := b, flashReq := some (.read b.toNat (n / 4) (n % 4)), flashResult := none,
    seq := .checksumming ⟨b.toNat, n / 4, n % 4, BitVec.ofNat 32 (n * 130560)⟩ }

/-- The device after the last paragraph of an erased block `b`. -/
def summed (d : Device) (b : Half) (buf : List Host.Cell) : Device :=
  { d with
    buf := buf, curBlock := b, flashReq := none, flashResult := none, chksum := 0x01FE0000, chkOk := true,
    seq := .idle }

theorem blockChecksumEffect_eq_summing (d : Device) (b : Half) : d.blockChecksumEffect b = d.summing b 0 d.buf := rfl

theorem flashKey_paragraph (b n : Nat) : flashKey b (n / 4) (n % 4) = flashKey b 0 0 + n * 528 := by
  unfold flashKey paragraphAddress
  omega

end Device

theorem ChecksumLoop.advance_paragraph (b : Nat) (sum sum' : Word) {n : Nat} (hn : n < 255) :
    (⟨b, n / 4, n % 4, sum⟩ : ChecksumLoop).advance sum' = .more ⟨b, (n + 1) / 4, (n + 1) % 4, sum'⟩ := by
  rw [advance_eq]
  dsimp only
  split
  · next hq => rw [show (n + 1) / 4 = n / 4 by omega, show (n + 1) % 4 = n % 4 + 1 by omega]
  · next hq => rw [if_pos (by omega), show (n + 1) / 4 = n / 4 + 1 by omega, show (n + 1) % 4 = 0 by omega]

theorem ChecksumLoop.advance_last_paragraph (b : Nat) (sum sum' : Word) {n : Nat} (hn : n = 255) :
    (⟨b, n / 4, n % 4, sum⟩ : ChecksumLoop).advance sum' = .finished true sum' := by
  rw [advance_eq, if_neg (by dsimp only; omega), if_neg (by dsimp only; omega)]

/-- The answer to a read that succeeds (20_memory.md R92). -/
def Device.readAnswer (d : Device) (b pg q : Nat) : FlashResult := ⟨true, d.flashPara b pg q⟩

theorem FlashResult.bytes_of_eq {r : FlashResult} {ok : Bool} {bytes : List Byte} (h : r = ⟨ok, bytes⟩) :
    r.bytes = bytes := by
  rw [h]

theorem Device.readAnswer_length (d : Device) (b pg q : Nat) : (d.readAnswer b pg q).bytes.length = 528 := by
  rw [FlashResult.bytes_of_eq (r := d.readAnswer b pg q) rfl, flashPara_length]

theorem Device.getD_readAnswer (d : Device) (b pg q : Nat) {i : Nat} (hi : i < 528) :
    (d.readAnswer b pg q).bytes.getD i 0 = Memory.read .flash d.flash (flashKey b pg q + i) := by
  rw [FlashResult.bytes_of_eq (r := d.readAnswer b pg q) rfl, d.getD_flashPara b pg q hi]

/-- A read that is answered, then the checksum's turn on it. -/
theorem actAll_read_turn {s : State} {c : ChecksumLoop} (hs : s.dev.seq = .checksumming c)
    (hq : s.dev.flashReq = some c.request) :
    actAll [.flash true [], .seq] s = .next (s.withDev ({ s.dev with
      flashReq := none, flashResult := some (s.dev.readAnswer c.b c.pg c.q) }.checksumStep c)) := by
  have read : act (.flash true []) s = .next (s.withDev { s.dev with
      flashReq := none, flashResult := some (s.dev.readAnswer c.b c.pg c.q) }) :=
    congrArg (Host.Outcome.next <| s.withDev ·) (Device.flashStep_of_read true [] hq)
  rw [actAll_cons read, actAll_singleton]
  exact act_seq_of_checksumming hs rfl

section

variable {s : State} {b : Half}
  (erased : ∀ i < blockBytes, Memory.read .flash s.dev.flash (flashKey b.toNat 0 0 + i) = 0xFF)

include erased

/-- One paragraph of an erased block: its bytes stay in the nand buffer, and the next one is read or the sum is
complete. -/
theorem actAll_erased_paragraph {n : Nat} (hn : n < 256) (buf : List Host.Cell) :
    ∃ buf', (∀ i < 528, Memory.read .buffers buf' (bufKey s.dev.sel i) = 0xFF) ∧
      actAll [.flash true [], .seq] (s.withDev (s.dev.summing b n buf)) =
        .next (s.withDev (if n < 255 then s.dev.summing b (n + 1) buf' else s.dev.summed b buf')) := by
  let c : ChecksumLoop := ⟨b.toNat, n / 4, n % 4, BitVec.ofNat 32 (n * 130560)⟩
  have length := (s.dev.summing b n buf).readAnswer_length b.toNat (n / 4) (n % 4)
  have bytes (i : Nat) (hi : i < 528) :
      ((s.dev.summing b n buf).readAnswer b.toNat (n / 4) (n % 4)).bytes.getD i 0 = 0xFF := by
    rw [Device.getD_readAnswer _ _ _ _ hi, Device.flashKey_paragraph, Nat.add_assoc]
    exact erased _ (by unfold blockBytes; omega)
  have step := actAll_read_turn (s := s.withDev (s.dev.summing b n buf)) (c := c) rfl rfl
  have ok : ((s.dev.summing b n buf).readAnswer b.toNat (n / 4) (n % 4)).ok = true := rfl
  change _ = Host.Outcome.next (s.withDev ({ s.dev.summing b n buf with
    flashReq := none,
    flashResult := some ((s.dev.summing b n buf).readAnswer b.toNat (n / 4) (n % 4)) }.checksumStep c)) at step
  generalize (s.dev.summing b n buf).readAnswer b.toNat (n / 4) (n % 4) = r at length bytes step ok
  let e : Device := { s.dev.summing b n buf with flashReq := none, flashResult := some r }
  have added : c.sum + 130560#32 = BitVec.ofNat 32 ((n + 1) * 130560) := by
    rw [Nat.succ_mul, BitVec.ofNat_add]
  have turn := e.takeFlash.checksumTurn_of_erased c ok length bytes
  refine ⟨(e.takeFlash.corrected r).buf, fun i => e.takeFlash.bufByte_corrected_of_erased length bytes, ?_⟩
  rw [e.takeFlash.corrected_eq] at turn
  generalize (e.takeFlash.corrected r).buf = buf' at turn ⊢
  refine step.trans (congrArg (Host.Outcome.next <| s.withDev ·) ?_)
  split
  · next more =>
    rw [ChecksumLoop.advance_paragraph _ _ _ more, added] at turn
    exact Device.checksumStep_more (d := e) rfl turn
  · next last =>
    have whole : n = 255 := by omega
    have total : BitVec.ofNat 32 ((n + 1) * 130560) = 0x01FE0000 := by
      rw [whole]
      decide
    rw [ChecksumLoop.advance_last_paragraph _ _ _ whole, added, total] at turn
    exact Device.checksumStep_finished (d := e) rfl turn

theorem actAll_erased_paragraphs {n : Nat} (hn : n ≤ 255) :
    ∃ buf, actAll (List.replicate n [Action.flash true [], Action.seq]).flatten
      (s.withDev (s.dev.summing b 0 s.dev.buf)) = .next (s.withDev (s.dev.summing b n buf)) := by
  induction n with
  | zero => exact ⟨s.dev.buf, rfl⟩
  | succ n ih =>
    obtain ⟨buf, run⟩ := ih (by omega)
    obtain ⟨buf', _, last⟩ := actAll_erased_paragraph erased (show n < 256 by omega) buf
    rw [if_pos (by omega)] at last
    exact ⟨buf', by rw [List.replicate_succ', List.flatten_append, actAll_append run, List.flatten_singleton, last]⟩

end

/-- Settles O40: the command, then the paragraphs in order, the last one ending the sum. -/
theorem erasedBlockChecksum : Obligations.ErasedBlockChecksum := by
  intro s b hs h1 hn erased
  have command : act (.host (.write32 0x000 (0x22000000 ||| b.setWidth 32))) s =
      .next (s.withDev (s.dev.summing b 0 s.dev.buf)) := by
    rw [← encode_blockChecksum, act_encode, exec_blockChecksum hs h1 hn, Device.blockChecksumEffect_eq_summing]
  obtain ⟨buf, run⟩ := actAll_erased_paragraphs erased (le_refl 255)
  obtain ⟨buf', bytes, last⟩ := actAll_erased_paragraph erased (show 255 < 256 by decide) buf
  rw [if_neg (by decide)] at last
  refine ⟨s.withDev (s.dev.summed b buf'), ?_, rfl, bytes⟩
  rw [actAll_cons command, List.replicate_succ' (n := 255), List.flatten_append, actAll_append run,
    List.flatten_singleton, last]

end Sys2Proof.Machine
end

section
/-! ### A slave's own steps (43_twin_replication.md R277, R284) -/

namespace Sys2Proof.Machine

/-- A bookkeeping request of the slave frame handler: none that starts or ends a run (43_twin_replication.md R284). -/
def BookRequest.OfSlave (r : BookRequest) : Prop :=
  r ≠ .flagIsSet .randomDataFinished ∧ r ≠ .setFlag .randomDataFinished ∧ ∀ b, r ≠ .blockStatus b

namespace BookRequest.OfSlave

theorem flagStarted : (flagIsSet .randomDataStarted).OfSlave := ⟨nofun, nofun, nofun⟩

theorem setStarted : (setFlag .randomDataStarted).OfSlave := ⟨nofun, nofun, nofun⟩

theorem markBad (b : Nat) : (BookRequest.markBad b).OfSlave := ⟨nofun, nofun, nofun⟩

end BookRequest.OfSlave

/-- Every bookkeeping request outstanding is one of the slave frame handler. -/
def Device.AsksAsSlave (d : Device) : Prop := ∀ r, d.bookReq = some r → r.OfSlave

/-- From `d` to `d'` no run starts, goes on or ends (43_twin_replication.md R284). -/
structure Device.StartsNothing (d d' : Device) : Prop where
  repl : d'.repl = d.repl
  curBlock : d'.curBlock = d.curBlock
  finished : d'.flags.randomDataFinished = d.flags.randomDataFinished
  asks : d.AsksAsSlave → d'.AsksAsSlave

/-- A slave is idle, in a block checksum or in a frame (42_twin_negotiation.md R242, 43_twin_replication.md R261). -/
theorem slave_seq_cases {d : Device} (h : d.SeqInv) (hn : d.NegInv) (hc : d.conn = .twinnedSlave) :
    d.seq = .idle ∨ (∃ c, d.seq = .checksumming c) ∨ ∃ f, d.seq = .slaveFrame f := by
  have role := h.role
  cases hs : d.seq with
  | idle => exact .inl rfl
  | negotiating p =>
    have undecided := hn.undecided (by rw [hs]; rfl)
    rw [hc] at undecided
    exact absurd undecided (by decide)
  | replicating tw p =>
    rw [hs, hc] at role
    cases tw <;> simp [SeqPoint.roleOk] at role
  | checksumming c => exact .inr (.inl ⟨c, rfl⟩)
  | slaveFrame f => exact .inr (.inr ⟨f, rfl⟩)

theorem slave_asksAsSlave {d : Device} (h : d.SeqInv) (hn : d.NegInv) (hc : d.conn = .twinnedSlave) :
    d.AsksAsSlave := by
  intro r hr
  obtain ⟨awaits, _⟩ := h.bookReq r hr
  rcases slave_seq_cases h hn hc with hs | ⟨c, hs⟩ | ⟨⟨token, payload, point⟩, hs⟩ <;> rw [hs] at awaits
  · cases awaits
  · cases awaits
  · cases point with
    | checkStarted => rw [show r = _ from of_decide_eq_true awaits]; exact .flagStarted
    | setStarted => rw [show r = _ from of_decide_eq_true awaits]; exact .setStarted
    | marking => rw [show r = _ from of_decide_eq_true awaits]; exact .markBad _
    | payload | erasing | programming | checksum => cases awaits

namespace Device.StartsNothing

variable {d e d' : Device}

@[refl] theorem refl (d : Device) : StartsNothing d d := ⟨rfl, rfl, rfl, id⟩

@[trans] theorem trans (h : StartsNothing d e) (h' : StartsNothing e d') : StartsNothing d d' :=
  ⟨h'.repl.trans h.repl, h'.curBlock.trans h.curBlock, h'.finished.trans h.finished, h'.asks ∘ h.asks⟩

theorem edit (hr : d'.repl = d.repl) (hc : d'.curBlock = d.curBlock) (hf : d'.flags = d.flags)
    (hb : d'.bookReq = d.bookReq) : StartsNothing d d' :=
  ⟨hr, hc, by rw [hf], fun h => by rwa [AsksAsSlave, hb]⟩

theorem ask {r : BookRequest} (hr : d'.repl = d.repl) (hc : d'.curBlock = d.curBlock) (hf : d'.flags = d.flags)
    (hb : d'.bookReq = some r) (h : r.OfSlave) : StartsNothing d d' :=
  ⟨hr, hc, by rw [hf], fun _ r' hr' => Option.some.inj (hb.symm.trans hr') ▸ h⟩

theorem recv {x : Byte} (h : d.recv = some (x, d')) : StartsNothing d d' := by
  obtain ⟨rest, _, rfl⟩ := Device.recv_some h
  exact edit rfl rfl rfl rfl

theorem checksumTurn (d : Device) (c : ChecksumLoop) (r : FlashResult) : StartsNothing d (d.checksumTurn c r).1 := by
  cases hr : r.ok with
  | false => rw [checksumTurn_of_failed d c hr]
  | true =>
    rw [checksumTurn_of_read d c hr, corrected_eq]
    exact edit rfl rfl rfl rfl

theorem turn {c : ChecksumLoop} {r : FlashResult} {d1 : Device} {n : ChecksumNext}
    (ht : d.takeFlash.checksumTurn c r = (d1, n)) : StartsNothing d d1 := by
  have took : StartsNothing d d.takeFlash := edit rfl rfl rfl rfl
  have turned := took.trans (checksumTurn d.takeFlash c r)
  rwa [ht] at turned

theorem checksumStep (d : Device) (c : ChecksumLoop) : StartsNothing d (d.checksumStep c) := by
  unfold Device.checksumStep
  split
  · rfl
  · next r _ =>
    rcases ht : d.takeFlash.checksumTurn c r with ⟨d1, c1 | ⟨ok, sum⟩⟩
    · exact (turn ht).trans (edit rfl rfl rfl rfl)
    · exact (turn ht).trans (edit rfl rfl rfl rfl)

theorem slaveProgram (d : Device) (f : SlaveFrame) : StartsNothing d (d.slaveProgram f) := by
  rw [slaveProgram_eq]
  exact edit rfl rfl rfl rfl

theorem frameComplete (d : Device) (f : SlaveFrame) : StartsNothing d (d.frameComplete f) := by
  have desync : StartsNothing d d.slaveDesync := edit rfl rfl rfl rfl
  unfold Device.frameComplete
  split
  · unfold Device.beginData
    split
    · split
      · exact ask rfl rfl rfl rfl .flagStarted
      · exact slaveProgram d f
    · exact desync
  · split
    · unfold Device.reqChecksum
      split
      · exact edit rfl rfl rfl rfl
      · exact desync
    · unfold Device.markBlock
      split
      · exact ask rfl rfl rfl rfl (.markBad _)
      · exact desync

theorem payloadByte (d : Device) (f : SlaveFrame) (x : Byte) : StartsNothing d (d.payloadByte f x) := by
  have stored : StartsNothing d (d.storePayload f x) := by
    rw [Device.storePayload_eq]
    exact edit rfl rfl rfl rfl
  unfold Device.payloadByte
  dsimp only
  split
  · exact stored.trans (frameComplete _ _)
  · exact stored.trans (edit rfl rfl rfl rfl)

theorem slaveStart (d : Device) : StartsNothing d d.slaveStart := by
  unfold Device.slaveStart
  split
  · split
    · next h =>
      refine (recv h).trans ?_
      unfold Device.firstByte
      split
      · exact edit rfl rfl rfl rfl
      · split <;> exact edit rfl rfl rfl rfl
    · rfl
  · rfl

theorem slaveStep (d : Device) (f : SlaveFrame) : StartsNothing d (d.slaveStep f) := by
  obtain ⟨token, payload, point⟩ := f
  cases point with
  | payload =>
    simp only [Device.slaveStep]
    split
    · next h => exact (recv h).trans (payloadByte _ _ _)
    · rfl
  | checkStarted =>
    simp only [Device.slaveStep]
    split
    · exact edit rfl rfl rfl rfl
    · exact ask rfl rfl rfl rfl .setStarted
    · rfl
  | checksum c =>
    simp only [Device.slaveStep]
    split
    · rfl
    · next r _ =>
      rcases ht : d.takeFlash.checksumTurn c r with ⟨d1, c1 | ⟨ok, sum⟩⟩
      · exact (turn ht).trans (edit rfl rfl rfl rfl)
      · exact (turn ht).trans (edit rfl rfl rfl rfl)
  | erasing =>
    simp only [Device.slaveStep]
    split
    · have took : StartsNothing d d.takeFlash := edit rfl rfl rfl rfl
      exact took.trans (slaveProgram _ _)
    · rfl
  | setStarted | programming | marking =>
    simp only [Device.slaveStep]
    split
    · exact edit rfl rfl rfl rfl
    · rfl

/-- The bookkeeping collaborator sets no flag of a run's end for a slave. -/
theorem bookStep (h : d.AsksAsSlave) : StartsNothing d d.bookStep := by
  unfold Device.bookStep
  split
  · rfl
  · next r hr =>
    obtain ⟨_, notFinished, _⟩ := h r hr
    have finished : (d.bookEffect r).flags.randomDataFinished = d.flags.randomDataFinished :=
      (d.flag_bookEffect r .randomDataFinished).trans (if_neg notFinished)
    rw [Device.bookEffect_eq]
    exact ⟨rfl, rfl, finished, fun _ => nofun⟩

end Device.StartsNothing

/-! #### What a slave queues -/

theorem Device.checksumStep_txq (d : Device) (c : ChecksumLoop) : (d.checksumStep c).txq = d.txq := by
  cases hx : d.flashResult with
  | none => rw [checksumStep, hx]
  | some r =>
    have turned : (d.takeFlash.checksumTurn c r).1.txq = d.txq := by
      cases hr : r.ok with
      | false => rw [checksumTurn_of_failed _ c hr]; rfl
      | true => rw [checksumTurn_of_read _ c hr, corrected_eq]; rfl
    rcases ht : d.takeFlash.checksumTurn c r with ⟨d1, c1 | ⟨ok, sum⟩⟩ <;> rw [ht] at turned
    · rw [checksumStep_more hx ht]
      exact turned
    · rw [checksumStep_finished hx ht]
      exact turned

/-- Idle, a slave queues a byte only for a PING (43_twin_replication.md R282). -/
theorem Device.slaveStart_txq {d : Device} (h : d.rxq.head? ≠ some tokPing) : d.slaveStart.txq = d.txq := by
  unfold slaveStart
  split
  · rcases d.recv_cases with ⟨_, hr⟩ | ⟨x, rest, hq, hr⟩
    · rw [hr]
    · have noPing : x ≠ tokPing := fun hx => h (by rw [hq, hx]; rfl)
      rw [hr]
      dsimp only
      rw [firstByte, if_neg noPing]
      split <;> rfl
  · rfl

/-- One step of a slave other than its HOST's and a RESET: it starts no run, and queues a byte only in a frame or for a
PING. -/
theorem act_slave {a : Action} {s : State} (h : s.dev.SeqInv) (hn : s.dev.NegInv) (hc : s.dev.conn = .twinnedSlave)
    (noHost : ∀ acc, a ≠ .host acc) (noReset : ∀ r, a ≠ .reset r) :
    ∃ t, act a s = .next t ∧ s.dev.StartsNothing t.dev ∧
      (s.dev.txq.length < t.dev.txq.length →
        a = .seq ∧ (s.dev.seq.phase = .slaveFrame ∨ s.dev.rxq.head? = some tokPing)) := by
  have silent {t : State} (ht : act a s = .next t) (k : s.dev.StartsNothing t.dev)
      (hx : t.dev.txq.length ≤ s.dev.txq.length) :
      ∃ t, act a s = .next t ∧ s.dev.StartsNothing t.dev ∧
        (s.dev.txq.length < t.dev.txq.length →
          a = .seq ∧ (s.dev.seq.phase = .slaveFrame ∨ s.dev.rxq.head? = some tokPing)) :=
    ⟨t, ht, k, fun grown => absurd grown (Nat.not_lt.mpr hx)⟩
  have edited {d : Device} (ha : act a s = .next (s.withDev d)) (hr : d.repl = s.dev.repl)
      (hc : d.curBlock = s.dev.curBlock) (hf : d.flags = s.dev.flags) (hb : d.bookReq = s.dev.bookReq)
      (hx : d.txq = s.dev.txq) := silent ha (.edit hr hc hf hb) (congrArg List.length hx).le
  cases a with
  | host acc => exact absurd rfl (noHost acc)
  | reset draw => exact absurd rfl (noReset draw)
  | seq =>
    rcases slave_seq_cases h hn hc with hs | ⟨c, hs⟩ | ⟨f, hs⟩
    · refine ⟨_, act_seq_of_idle hs rfl, .slaveStart _, fun grown => ⟨rfl, .inr ?_⟩⟩
      by_contra noPing
      rw [State.withDev_dev, Device.slaveStart_txq noPing] at grown
      exact lt_irrefl _ grown
    · exact silent (act_seq_of_checksumming hs rfl) (.checksumStep _ c)
        (congrArg List.length (Device.checksumStep_txq _ c)).le
    · exact ⟨_, act_seq_of_slaveFrame hs rfl, .slaveStep _ f, fun _ => ⟨rfl, .inl (by rw [hs]; rfl)⟩⟩
  | adc x =>
    have e := s.dev.adcStep_eq x
    exact edited rfl (by rw [e]) (by rw [e]) (by rw [e]) (by rw [e]) (by rw [e])
  | timer =>
    have e := s.dev.timerStep_eq
    exact edited rfl (by rw [e]) (by rw [e]) (by rw [e]) (by rw [e]) (by rw [e])
  | flash ok content =>
    have e := s.dev.flashStep_eq ok content
    exact edited rfl (by rw [e]) (by rw [e]) (by rw [e]) (by rw [e]) (by rw [e])
  | usbHost level => exact edited rfl rfl rfl rfl rfl rfl
  | book =>
    exact silent rfl (.bookStep (slave_asksAsSlave h hn hc)) (by rw [State.withDev_dev, Device.bookStep_eq])
  | uartRx =>
    cases hl : s.lineIn with
    | nil => exact silent (congrArg Host.Outcome.next (State.uartRxStep_of_nil hl)) (.refl _) le_rfl
    | cons x rest =>
      have e := s.dev.receive_eq x
      refine silent (congrArg Host.Outcome.next (State.uartRxStep_of_cons hl)) ?_ ?_ <;> rw [e]
      exact .edit rfl rfl rfl rfl
  | uartTx =>
    by_cases hl : s.dev.txq = []
    · exact silent (congrArg Host.Outcome.next (State.uartTxStep_of_nil hl)) (.refl _) le_rfl
    · obtain ⟨x, rest, hl⟩ := List.exists_cons_of_ne_nil hl
      refine silent (congrArg Host.Outcome.next (State.uartTxStep_of_cons hl)) (.edit rfl rfl rfl rfl) ?_
      rw [hl]
      exact Nat.le_succ _

/-- Settles O44: each step of a slave by its agent, the SEQ step by the slave's three phases. -/
theorem slaveNeverInitiates : Obligations.SlaveNeverInitiates := by
  intro a s h hn hc noHost noReset
  obtain ⟨t, ht, k, queued⟩ := act_slave h hn hc noHost noReset
  exact ⟨t, ht, k.repl, k.curBlock, k.finished, k.asks (slave_asksAsSlave h hn hc), queued⟩

end Sys2Proof.Machine
end

section
/-! ### A whole BEGIN_DATA frame (43_twin_replication.md R279) -/

namespace Sys2Proof.Machine

/-- The data bytes among the `received` ones of a BEGIN_DATA frame stand in the nand buffer (43_twin_replication.md
R279). -/
def Device.HoldsData (d : Device) (received : List Byte) : Prop :=
  ∀ i, i + 4 < received.length → d.bufByte d.sel i = received.getD (i + 4) 0

/-- Each byte received is stored at its place. -/
theorem Device.HoldsData.storePayload {d : Device} {received : List Byte} (h : d.HoldsData received) (x : Byte) :
    (d.storePayload ⟨tokBeginData, received, .payload⟩ x).HoldsData (received ++ [x]) := by
  intro i hi
  rw [List.length_append, List.length_singleton] at hi
  have sel : (d.storePayload ⟨tokBeginData, received, .payload⟩ x).sel = d.sel := by rw [Device.storePayload_eq]
  rw [sel, bufByte, read_storePayload]
  simp only [bufKey_eq_iff]
  by_cases last : i + 4 = received.length
  · rw [if_pos ⟨trivial, by omega, by omega⟩, last]
    simp [List.getD_eq_getElem?_getD]
  · have old : i + 4 < received.length := by omega
    rw [if_neg (by omega)]
    refine (h i old).trans ?_
    simp [List.getD_eq_getElem?_getD, List.getElem?_append, old]

/-- The 528 bytes programmed for 512 data bytes: the data and the spare image of their code (43_twin_replication.md
R266). -/
def withCode (data : List Byte) : List Byte := data ++ spareImage (eccGen fun i => data.getD i 0)

theorem withCode_length {data : List Byte} (hl : data.length = 512) : (withCode data).length = 528 := by
  simp [withCode, hl, spareImage_length]

/-- The nand buffer's paragraph, byte by byte. -/
theorem Device.getD_bufPara (d : Device) (p : Bool) {i : Nat} (hi : i < 528) :
    (d.bufPara p).getD i 0 = d.bufByte p i := by
  have key : bufKey p 0 + i = bufKey p i := by unfold bufKey; omega
  rw [bufPara, Memory.getD_readBytes _ _ _ _ _ _ hi, key, bufByte]

/-- The paragraph a slave programs from a whole frame (43_twin_replication.md R266, R279). -/
theorem Device.HoldsData.bufPara_writeSpare {d : Device} {lo hi pg q : Byte} {data : List Byte}
    (h : d.HoldsData ([lo, hi, pg, q] ++ data)) (hl : data.length = 512) :
    d.writeSpare.bufPara d.sel = withCode data := by
  have byte (i : Nat) (hi' : i < 512) : d.bufByte d.sel i = data.getD i 0 := h i (by simp [hl]; omega)
  have stored : (List.range 512).map (fun i => d.bufByte d.sel i) = data := by
    refine List.ext_getElem (by rw [List.length_map, List.length_range, hl]) fun i h1 h2 => ?_
    rw [List.getElem_map, List.getElem_range, byte i (hl ▸ h2), List.getD_eq_getElem _ _ h2]
  rw [Device.bufPara_writeSpare, stored, eccGen_congr (f := d.bufData d.sel) byte, withCode]

/-- A whole frame that does not start its block asks for the program of its data with their code. -/
theorem Device.HoldsData.frameComplete {d : Device} {lo hi pg q : Byte} {data : List Byte}
    (h : d.HoldsData ([lo, hi, pg, q] ++ data)) (hl : data.length = 512) (h1 : 1 ≤ (hi ++ lo).toNat)
    (hn : (hi ++ lo).toNat < d.params.blockCount) (hp : pg.toNat ≤ 63) (hq : q.toNat ≤ 3)
    (notFirst : ¬ (pg.toNat = 0 ∧ q.toNat = 0)) :
    d.frameComplete ⟨tokBeginData, [lo, hi, pg, q] ++ data, .payload⟩ = { d with
      buf := d.writeSpare.buf,
      flashReq := some (.program (hi ++ lo).toNat pg.toNat q.toNat (withCode data)),
      flashResult := none, seq := .slaveFrame ⟨tokBeginData, [lo, hi, pg, q] ++ data, .programming⟩ } := by
  refine (Device.frameComplete_beginData (f := ⟨tokBeginData, [lo, hi, pg, q] ++ data, .payload⟩) rfl h1 hn hp hq).trans
    ((if_neg notFirst).trans ?_)
  rw [Device.slaveProgram_eq, ← Device.bufPara_writeSpare, h.bufPara_writeSpare hl]
  rfl

/-- The state once the byte `x` of the line has come to an empty RXQ. -/
def State.arrived (s : State) (x : Byte) (rest : List Byte) : State :=
  { s with dev := { s.dev with rxq := [x] }, lineIn := rest }

theorem actAll_arrival {s : State} {x : Byte} {rest : List Byte} (hq : s.dev.rxq = [])
    (room : 1 ≤ s.dev.params.rxFifoDepth) (hl : s.lineIn = x :: rest) :
    actAll [.uartRx, .seq] s = act .seq (s.arrived x rest) := by
  have arrives : act .uartRx s = .next (s.arrived x rest) := by
    rw [act, State.uartRxStep_of_cons hl, Device.receive_of_room x (by rw [hq]; exact room), hq]
    rfl
  rw [actAll_cons arrives, actAll_singleton]

section

variable {s : State}

/-- The slave that has taken the token and the bytes `received` of a BEGIN_DATA frame, `line` still to come. -/
def State.framing (s : State) (line : List Byte) (buf : List Host.Cell) (received : List Byte) : State :=
  { s with
    dev := { s.dev with buf := buf, rxq := [], seq := .slaveFrame ⟨tokBeginData, received, .payload⟩ }
    lineIn := line }

theorem actAll_begin {line : List Byte} (hc : s.dev.conn = .twinnedSlave) (hs : s.dev.seq = .idle)
    (hq : s.dev.rxq = []) (room : 1 ≤ s.dev.params.rxFifoDepth) (hl : s.lineIn = tokBeginData :: line) :
    actAll [.uartRx, .seq] s = .next (s.framing line s.dev.buf []) := by
  rw [actAll_arrival hq room hl]
  exact act_seq_of_idle (s := s.arrived tokBeginData line) hs
    ((Device.slaveStart_of_byte (d := (s.arrived tokBeginData line).dev) hc rfl).trans
      (Device.firstByte_of_token _ (.inl rfl)))

variable (room : 1 ≤ s.dev.params.rxFifoDepth)

include room

theorem actAll_frame_byte (x : Byte) (line : List Byte) (buf : List Host.Cell) (received : List Byte) :
    actAll [.uartRx, .seq] (s.framing (x :: line) buf received) = .next { s with
      dev := (s.framing (x :: line) buf received).dev.payloadByte ⟨tokBeginData, received, .payload⟩ x
      lineIn := line } :=
  (actAll_arrival (s := s.framing (x :: line) buf received) rfl room rfl).trans
    (act_seq_of_slaveFrame (s := (s.framing (x :: line) buf received).arrived x line) rfl
      (Device.slaveStep_payload rfl))

theorem actAll_payload_byte {x : Byte} {line : List Byte} {buf : List Host.Cell} {received : List Byte}
    (more : received.length < 515) (held : (s.framing (x :: line) buf received).dev.HoldsData received) :
    ∃ buf', (s.framing line buf' (received ++ [x])).dev.HoldsData (received ++ [x]) ∧
      actAll [.uartRx, .seq] (s.framing (x :: line) buf received) = .next (s.framing line buf' (received ++ [x])) := by
  have stored := held.storePayload x
  have run := actAll_frame_byte room x line buf received
  rw [Device.storePayload_eq] at stored
  rw [Device.payloadByte_of_more _ x (Nat.add_lt_of_lt_sub more)] at run
  exact ⟨_, stored, run⟩

theorem actAll_payload_bytes {received line : List Byte} (more : received.length ≤ 515) :
    ∃ buf, (s.framing line buf received).dev.HoldsData received ∧
      actAll (List.replicate received.length [Action.uartRx, Action.seq]).flatten
        (s.framing (received ++ line) s.dev.buf []) = .next (s.framing line buf received) := by
  induction received using List.reverseRecOn generalizing line with
  | nil => exact ⟨s.dev.buf, fun i hi => absurd hi (Nat.not_lt_zero _), rfl⟩
  | append_singleton received x ih =>
    rw [List.length_append, List.length_singleton] at more ⊢
    obtain ⟨buf, held, run⟩ := ih (line := x :: line) (by omega)
    obtain ⟨buf', held', last⟩ := actAll_payload_byte room (by omega) held
    refine ⟨buf', held', ?_⟩
    rw [List.append_assoc, List.singleton_append, List.replicate_succ', List.flatten_append, actAll_append run,
      List.flatten_singleton, last]

/-- The device that has asked for the program of a whole BEGIN_DATA frame, `data` and their code in its buffer. -/
def Device.programming (d : Device) (buf : List Host.Cell) (lo hi pg q : Byte) (data : List Byte) : Device :=
  { d with
    buf := buf, rxq := [],
    flashReq := some (.program (hi ++ lo).toNat pg.toNat q.toNat (withCode data)),
    flashResult := none, seq := .slaveFrame ⟨tokBeginData, [lo, hi, pg, q] ++ data, .programming⟩ }

section

variable {lo hi pg q : Byte} (h1 : 1 ≤ (hi ++ lo).toNat) (hn : (hi ++ lo).toNat < s.dev.params.blockCount)
  (hp : pg.toNat ≤ 63) (hq : q.toNat ≤ 3) (notFirst : ¬ (pg.toNat = 0 ∧ q.toNat = 0))

include h1 hn hp hq notFirst

theorem actAll_last_byte {init more : List Byte} {x : Byte} {buf : List Host.Cell}
    (held : (s.framing (x :: more) buf ([lo, hi, pg, q] ++ init)).dev.HoldsData ([lo, hi, pg, q] ++ init))
    (hl : (init ++ [x]).length = 512) :
    ∃ buf', (∀ i < 528, Memory.read .buffers buf' (bufKey s.dev.sel i) =
        (withCode (init ++ [x])).getD i 0) ∧
      actAll [.uartRx, .seq] (s.framing (x :: more) buf ([lo, hi, pg, q] ++ init)) =
        .next { s with dev := s.dev.programming buf' lo hi pg q (init ++ [x]), lineIn := more } := by
  let d := (s.framing (x :: more) buf ([lo, hi, pg, q] ++ init)).dev
  let g : SlaveFrame := ⟨tokBeginData, [lo, hi, pg, q] ++ init, .payload⟩
  let e : Device := { d with buf := (d.storePayload g x).buf }
  have stored : e.HoldsData ([lo, hi, pg, q] ++ (init ++ [x])) := by
    rw [← show d.storePayload g x = e from Device.storePayload_eq _ _ _]
    exact held.storePayload x
  have whole : payloadLength g.token = g.payload.length + 1 := by
    have length : init.length = 511 := by simpa using hl
    simp [g, length, payloadLength]
  have complete : d.payloadByte g x = s.dev.programming e.writeSpare.buf lo hi pg q (init ++ [x]) :=
    (Device.payloadByte_of_last d x whole).trans (stored.frameComplete hl h1 hn hp hq notFirst)
  refine ⟨e.writeSpare.buf, fun i hi => ?_, ?_⟩
  · rw [← stored.bufPara_writeSpare hl]
    exact (Device.getD_bufPara _ _ hi).symm
  · rw [actAll_frame_byte room x more buf, complete]

theorem actAll_whole_frame {data more : List Byte} (hl : data.length = 512) :
    ∃ buf, (∀ i < 528, Memory.read .buffers buf (bufKey s.dev.sel i) = (withCode data).getD i 0) ∧
      actAll (List.replicate 516 [Action.uartRx, Action.seq]).flatten
        (s.framing ([lo, hi, pg, q] ++ data ++ more) s.dev.buf []) =
        .next { s with dev := s.dev.programming buf lo hi pg q data, lineIn := more } := by
  have nonempty : data ≠ [] := List.ne_nil_of_length_pos (by omega)
  obtain ⟨init, x, rfl⟩ : ∃ init x, data = init ++ [x] := ⟨_, _, (List.dropLast_concat_getLast nonempty).symm⟩
  have length : ([lo, hi, pg, q] ++ init).length = 515 := by simpa using hl
  obtain ⟨buf, held, run⟩ := actAll_payload_bytes room (line := x :: more) length.le
  obtain ⟨buf', bytes, last⟩ := actAll_last_byte room h1 hn hp hq notFirst held hl
  rw [length] at run
  refine ⟨buf', bytes, ?_⟩
  rw [List.replicate_succ' (n := 515), List.flatten_append, List.flatten_singleton,
    ← List.append_assoc, List.append_assoc _ [x], List.singleton_append, actAll_append run, last]

end

end

/-- The slave that has programmed a whole frame and answered it. -/
def Device.programmed (d : Device) (buf flash : List Host.Cell) : Device :=
  { d with
    buf := buf, flash := flash, flashReq := none, flashResult := none, seq := .idle,
    txq := d.txq ++ [.lit tokDataAck] }

/-- The flash programs the frame's paragraph, and the slave answers DATA_ACK. -/
theorem actAll_programming {s : State} (hr : s.dev.rxq = []) (buf : List Host.Cell) (lo hi pg q : Byte)
    (data more content : List Byte) :
    actAll [.flash true content, .seq] { s with dev := s.dev.programming buf lo hi pg q data, lineIn := more } =
      .next { s with
        dev := s.dev.programmed buf (s.dev.setFlash (flashKey (hi ++ lo).toNat pg.toNat q.toNat) 528
          (List.zipWith (fun old new => old &&& new) (s.dev.flashPara (hi ++ lo).toNat pg.toNat q.toNat)
            (withCode data))).flash
        lineIn := more } := by
  let t : State := { s with dev := s.dev.programming buf lo hi pg q data, lineIn := more }
  have flashed := Device.flashStep_of_program (d := t.dev) true content rfl
  rw [if_pos rfl] at flashed
  have flash : ∀ bytes base, (t.dev.setFlash base 528 bytes).flash = (s.dev.setFlash base 528 bytes).flash :=
    fun _ _ => rfl
  rw [flash] at flashed
  have old : t.dev.flashPara = s.dev.flashPara := rfl
  rw [old] at flashed
  generalize (s.dev.setFlash _ 528 _).flash = cells at flashed ⊢
  have program : act (.flash true content) t = .next (t.withDev _) :=
    congrArg (Host.Outcome.next <| t.withDev ·) flashed
  have quiet : s.dev.programmed buf cells = { s.dev.programmed buf cells with rxq := [] } := by
    rw [Device.programmed, hr]
  rw [actAll_cons program, actAll_singleton, quiet]
  exact act_seq_of_slaveFrame rfl rfl

/-- Settles O43: the token, the payload byte by byte, then the program's answer. -/
theorem slaveProgramsTheFrame : Obligations.SlaveProgramsTheFrame := by
  intro s lo hi pg q data more content hc hs hr room line hl h1 hn hp hq other para key
  have notFirst : ¬ (pg.toNat = 0 ∧ q.toNat = 0) := by
    rintro ⟨hpg, hqq⟩
    exact other.elim (absurd (BitVec.eq_of_toNat_eq hpg)) (absurd (BitVec.eq_of_toNat_eq hqq))
  have start := actAll_begin (line := [lo, hi, pg, q] ++ data ++ more) hc hs hr room line
  obtain ⟨buf, bytes, frame⟩ := actAll_whole_frame (more := more) room h1 hn hp hq notFirst hl
  have run := (actAll_append start _).trans
    ((actAll_append frame _).trans (actAll_programming hr buf lo hi pg q data more content))
  rw [← List.append_assoc, ← List.flatten_cons, ← List.replicate_succ] at run
  have inside (i : Nat) (hi' : i < 528) := (s.dev.read_setFlash_inside key _ hi').trans
    (s.dev.getD_programmed (hi ++ lo).toNat pg.toNat q.toNat (withCode_length hl) hi' _)
  have outside (a : Nat) (ha : ¬ (key ≤ a ∧ a < key + 528)) := s.dev.read_setFlash_outside
    (List.zipWith (fun old new => old &&& new) (s.dev.flashPara (hi ++ lo).toNat pg.toNat q.toNat) (withCode data)) ha
  generalize (s.dev.setFlash _ 528 _).flash = cells at run inside outside
  exact ⟨_, run, rfl, bytes, inside, outside⟩

end Sys2Proof.Machine
end

section
/-! ### Register access (44_register_access.md R310 to R322) -/

namespace Sys2Proof.Machine

/-! #### A CMD write (R312, R320) -/

theorem State.nextEvent_of_pending {s : State} {e : Event} {rest : List Event} (h : s.pending = e :: rest) :
    s.nextEvent = (e, { s with pending := rest }) := by
  rw [State.nextEvent, h]

/-- The step on a pending CMD write issues its word (R312, log entry 1). -/
theorem step_of_pending_command {s : State} {w : Word} {rest : List Event} (h : s.pending = commandEvent w :: rest) :
    step s = issueCommand w { s with pending := rest } := by
  rw [step, State.nextEvent_of_pending h]
  rfl

/-- Settles O6: the pending write is issued, and its word decodes; `withFetchWord` places such a write. -/
theorem stepRunsTheDecodedCommand : Obligations.StepRunsTheDecodedCommand := by
  have run {s : State} {w : Word} {i : Instr} {rest : List Event} (h : s.pending = commandEvent w :: rest)
      (hd : decode w = .ok i) : step s = exec i { s with pending := rest } :=
    (step_of_pending_command h).trans (issueCommand_of_ok hd _)
  exact ⟨fun _ _ _ _ => run, fun s nbits w _ => run (s := s.withFetchWord nbits w) rfl⟩

/-- Of the words with opcode 0x00 only 0 has no reserved bit set (30_encoding.md R125). -/
theorem reservedBits_of_nop {w : Word} (hop : opOf w = 0x00) (hw : w ≠ 0) : w &&& reservedMask (opOf w) ≠ 0 := by
  intro clear
  obtain ⟨i, _, rfl⟩ := decode_of_clear (by rw [hop]; rfl) clear
  rw [opOf_encode, opcode_eq_zero_iff] at hop
  exact hw (hop ▸ rfl)

/-- Settles O8: the word 0 is NOP; any other word of its opcode has a reserved bit, and NOP has no BUSY check. -/
theorem nopChangesNothing : Obligations.NopChangesNothing := by
  intro s
  have word : hostStep (.write32 0x000 0x00000000) s = exec .nop s := act_encode .nop s
  refine ⟨rfl, word, fun w hop hw => ?_⟩
  exact issueCommand_of_badArg (by rw [hop]; rfl) (fun ⟨notNop, _⟩ => notNop hop) (.inl (reservedBits_of_nop hop hw))

/-! #### The map (30_encoding.md R120) -/

theorem targetOf_rngWindow {i : Nat} (h : i < 528) : targetOf (BitVec.ofNat 12 (0x800 + i)) = .rngWindow i := by
  rw [targetOf, BitVec.toNat_ofNat, Nat.mod_eq_of_lt (by omega), targetAt_high (by omega), if_neg (by omega),
    if_pos (by omega), Nat.add_sub_cancel_left]

theorem targetOf_rngBits : ∀ k < 4, targetOf (BitVec.ofNat 12 (0x020 + 4 * k)) = .rngBits k := by
  decide

/-- A read is legal exactly at the offsets of R311. -/
theorem legalRead_targetOf (a : Offset) (n : Width) : legalRead (targetOf a) n = readable a.toNat n := by
  unfold targetOf
  generalize a.toNat = m
  rcases Nat.lt_or_ge m 0x30 with low | high
  · revert m
    cases n <;> decide
  · rw [targetAt_high high]
    cases n with
    | byte =>
      split
      · next nand => simp [legalRead, readable, inWindow, nand]
      · next other =>
        split
        · next rng => simp [legalRead, readable, inWindow, rng]
        · simp [legalRead, readable, inWindow]; omega
    | word =>
      have noRegister : readable m .word = false := by simp [readable]; omega
      rw [noRegister]
      split
      · rfl
      · split <;> rfl

/-- The bytes that can be written are those that can be read (R311). -/
theorem legalWrite_byte (t : Target) : legalWrite t .byte = legalRead t .byte := by
  cases t <;> rfl

theorem legalWrite_word_iff (t : Target) : legalWrite t .word = true ↔ t = .cmd ∨ t = .eccCode ∨ t = .err := by
  cases t <;> simp [legalWrite]

/-! #### Reads (R311, R317, R321) -/

theorem hostStep_read_legal {a : Offset} {n : Width} {t : Target} (ha : targetOf a = t) (hl : legalRead t n = true)
    (s : State) : hostStep (.read a n) s = .next (s.readBack (s.dev.readTarget t)) := by
  rw [hostStep, Device.mmioRead, ha, if_pos hl]
  rfl

theorem hostStep_read_illegal {a : Offset} {n : Width} (h : legalRead (targetOf a) n = false) (s : State) :
    hostStep (.read a n) s = .next { s with dev := { s.dev with err := s.dev.err ||| 0x080, readData := 0 } } := by
  rw [hostStep, Device.mmioRead, h]
  rfl

/-- Settles O48: each offset is in its row of the map, a legal read returns the row's value, and the rows that are
legal are the readable offsets. -/
theorem readsReturnTheirRow : Obligations.ReadsReturnTheirRow := by
  intro s
  refine ⟨hostStep_read_legal (t := .status) rfl rfl s, hostStep_read_legal (t := .eccCode) rfl rfl s,
    hostStep_read_legal (t := .eccSyn) rfl rfl s, hostStep_read_legal (t := .err) rfl rfl s,
    hostStep_read_legal (t := .chksum) rfl rfl s, hostStep_read_legal (t := .negInfo) rfl rfl s,
    fun k hk => hostStep_read_legal (targetOf_rngBits k hk) rfl s,
    fun i hi => ⟨hostStep_read_legal (targetOf_nandWindow hi) rfl s,
      hostStep_read_legal (targetOf_rngWindow hi) rfl s⟩,
    fun a n illegal => hostStep_read_illegal ?_ s⟩
  rw [legalRead_targetOf, illegal]

/-! #### Writes other than CMD (R314, R316, R318, R319, R322) -/

theorem hostStep_write8_nand {a : Offset} {i : Nat} (ha : targetOf a = .nandWindow i) (v : Byte) (s : State) :
    hostStep (.write8 a v) s = .next (s.withDev (s.dev.writeNand i v)) := by
  rw [hostStep, Device.mmioWrite8, ha]
  rfl

theorem hostStep_write8_rng {a : Offset} {i : Nat} (ha : targetOf a = .rngWindow i) (v : Byte) (s : State) :
    hostStep (.write8 a v) s = .next (s.withDev (s.dev.writeRng i v)) := by
  rw [hostStep, Device.mmioWrite8, ha]
  rfl

theorem hostStep_write8_illegal {a : Offset} (h : inWindow a.toNat = false) (v : Byte) (s : State) :
    hostStep (.write8 a v) s = .next (s.withErr 0x080) := by
  have illegal : legalWrite (targetOf a) .byte = false := by rw [legalWrite_byte, legalRead_targetOf]; exact h
  rw [hostStep, Device.mmioWrite8, illegal]
  rfl

theorem hostStep_write32_illegal {a : Offset} (hc : a ≠ 0x000) (he : a ≠ 0x008) (hr : a ≠ 0x010) (v : Word)
    (s : State) : hostStep (.write32 a v) s = .next (s.withErr 0x080) := by
  obtain ⟨cmd, eccCode, err⟩ := targetOf_register a
  have illegal : ¬ legalWrite (targetOf a) .word = true := by
    rw [legalWrite_word_iff]
    rintro (h | h | h)
    · exact hc (cmd h)
    · exact he (eccCode h)
    · exact hr (err h)
  rw [hostStep, if_neg (mt cmd hc), Device.mmioWrite32, if_neg illegal]
  rfl

/-- The nand window is writable while no operation runs (R318). -/
theorem Device.writeNand_eq (d : Device) (i : Nat) (v : Byte) :
    d.writeNand i v = if d.seq = .idle then d.setBufByte d.sel i v else d.raise .busy := by
  split
  · next idle => rw [writeNand, busy_of_seq_idle idle]; rfl
  · next busy => exact if_pos (busy_of_seq_ne busy)

/-- The rng window is writable while neither an operation nor a stream runs (R319). -/
theorem Device.writeRng_eq (d : Device) (i : Nat) (v : Byte) :
    d.writeRng i v = if d.seq = .idle then
      if d.streamActive = true then d.raise .bufBusy else d.setBufByte (!d.sel) i v
    else d.raise .busy := by
  split
  · next idle => rw [writeRng, busy_of_seq_idle idle]; rfl
  · next busy => exact if_pos (busy_of_seq_ne busy)

/-- Settles O49: each window write by its guards, the two registers by their rows, and the illegal writes by the map. -/
theorem writesReachOnlyTheirRow : Obligations.WritesReachOnlyTheirRow := by
  intro s
  refine ⟨fun _ => rfl, fun _ => rfl, fun i v hi => ⟨_, hostStep_write8_nand (targetOf_nandWindow hi) v s, ?_⟩,
    fun i v hi => ⟨_, hostStep_write8_rng (targetOf_rngWindow hi) v s, ?_⟩,
    fun a v window => hostStep_write8_illegal window v s,
    fun a v hc he hr => hostStep_write32_illegal hc he hr v s⟩
  · rw [Device.writeNand_eq]
    split
    · exact ⟨rfl, fun a => Memory.read_write _ _ _ a v⟩
    · rfl
  · rw [Device.writeRng_eq]
    split
    · split
      · rfl
      · exact ⟨rfl, fun a => Memory.read_write _ _ _ a v⟩
    · rfl

/-! #### STATUS (R313) -/

theorem Device.busy_eq_decide (d : Device) : d.busy = decide (d.seq ≠ .idle) := by
  by_cases h : d.seq = .idle
  · simp [busy_of_seq_idle h, h]
  · simp [busy_of_seq_ne h, h]

/-- A field that starts at or above bit `m` does not read the low `m` bits. -/
theorem extractLsb'_append_high {a m : Nat} (x : BitVec a) (y : BitVec m) (k n : Nat) :
    (x ++ y).extractLsb' (k + m) n = x.extractLsb' k n := by
  rw [BitVec.extractLsb'_append_eq_of_le (Nat.le_add_left m k), Nat.add_sub_cancel]

namespace Device

/-! Each field of several bits: the fields of R313's table to its right are dropped one by one. -/

theorem statusWord_conn (d : Device) : d.statusWord.extractLsb' 5 3 = d.conn.code := by
  iterate 5 refine (extractLsb'_append_high _ _ _ _).trans ?_
  exact BitVec.extractLsb'_append_eq_right

theorem statusWord_repl (d : Device) : d.statusWord.extractLsb' 8 3 = d.repl.code := by
  iterate 6 refine (extractLsb'_append_high _ _ _ _).trans ?_
  exact BitVec.extractLsb'_append_eq_right

theorem statusWord_eccRes (d : Device) : d.statusWord.extractLsb' 11 3 = d.eccRes.code := by
  iterate 7 refine (extractLsb'_append_high _ _ _ _).trans ?_
  exact BitVec.extractLsb'_append_eq_right

theorem statusWord_curBlock (d : Device) : d.statusWord.extractLsb' 16 16 = d.curBlock := by
  iterate 10 refine (extractLsb'_append_high _ _ _ _).trans ?_
  exact BitVec.extractLsb'_eq_self

theorem statusWord_bits (d : Device) :
    d.statusWord.getLsbD 0 = d.busy ∧ d.statusWord.getLsbD 1 = d.rngArmed ∧ d.statusWord.getLsbD 2 = d.rngDone ∧
    d.statusWord.getLsbD 3 = d.streamActive ∧ d.statusWord.getLsbD 4 = d.sel ∧
    d.statusWord.getLsbD 14 = d.chkOk ∧ d.statusWord.getLsbD 15 = d.usbHost := by
  unfold statusWord
  simp only [BitVec.getLsbD_append]
  simp

end Device

/-- Settles O50: the one-bit fields, and the others by their codes (10_state.md R47 to R49). -/
theorem statusWordFields : Obligations.StatusWordFields := by
  intro d w
  obtain ⟨busy, armed, done, stream, sel, chkOk, usbHost⟩ := d.statusWord_bits
  refine ⟨busy.trans d.busy_eq_decide, armed, done, stream, sel, ?conn, ?repl, ?eccRes, chkOk, usbHost,
    d.statusWord_curBlock⟩
  case conn =>
    rw [d.statusWord_conn]
    cases d.conn <;> rfl
  case repl =>
    rw [d.statusWord_repl]
    cases d.repl <;> rfl
  case eccRes =>
    rw [d.statusWord_eccRes]
    cases d.eccRes <;> rfl

end Sys2Proof.Machine
end

section
/-! ### Busy refusals and the devices of a step (60_exceptions.md R340 to R351) -/

namespace Sys2Proof.Machine

/-! #### Accesses while an operation runs (R343) -/

/-- The offsets of the two windows (30_encoding.md R120) are in a window's row of the map. -/
theorem targetOf_of_inWindow {a : Offset} (h : inWindow a.toNat = true) :
    (∃ i, targetOf a = .nandWindow i) ∨ ∃ i, targetOf a = .rngWindow i := by
  have legal : legalRead (targetOf a) .byte = true := (legalRead_targetOf a .byte).trans h
  cases ht : targetOf a with
  | nandWindow i => exact .inl ⟨i, rfl⟩
  | rngWindow i => exact .inr ⟨i, rfl⟩
  | _ => rw [ht] at legal; cases legal

theorem hostStep_write8_window_of_busy {a : Offset} {s : State} (h : inWindow a.toNat = true)
    (hs : s.dev.seq ≠ .idle) (v : Byte) : hostStep (.write8 a v) s = .next (s.withErr 0x002) := by
  rcases targetOf_of_inWindow h with ⟨i, nand⟩ | ⟨i, rng⟩
  · rw [hostStep_write8_nand nand, Device.writeNand_eq, if_neg hs]
    rfl
  · rw [hostStep_write8_rng rng, Device.writeRng_eq, if_neg hs]
    rfl

/-- Settles O5: commands and window writes have a BUSY check; reads and the two register writes have none. -/
theorem busyRefusesCommandsAndWindowWrites : Obligations.BusyRefusesCommandsAndWindowWrites := by
  intro s hs
  obtain ⟨eccCode, err, _⟩ := writesReachOnlyTheirRow s
  exact ⟨fun _ assigned notNop => issueCommand_of_busy assigned notNop hs,
    fun _ v window => hostStep_write8_window_of_busy window hs v,
    fun a n legal => hostStep_read_legal rfl ((legalRead_targetOf a n).trans legal) s,
    eccCode, err⟩

/-! #### One event moves the device of its side (R340, R347, R351) -/

/-- An event answers a next state, in which the device of the other side and the scheduling fields are as before. -/
theorem perform_frame (e : Event) (s : State) :
    ∃ t, perform e s = .next t ∧ (e.side = .self → t.twin = s.twin) ∧ (e.side = .twin → t.dev = s.dev) ∧
      t.pending = s.pending ∧ t.eventCount = s.eventCount := by
  obtain ⟨side, action⟩ := e
  cases side with
  | self =>
    obtain ⟨t, h, _, twin, pending, count⟩ := act_move action s
    exact ⟨t, h, fun _ => twin, nofun, pending, count⟩
  | twin =>
    cases hd : s.twin with
    | none => exact ⟨s, perform_twin_of_none action hd, nofun, fun _ => rfl, rfl, rfl⟩
    | some d =>
      obtain ⟨t, h, _, twin, pending, count⟩ := act_move action s.swapSides
      rw [State.swapSides_of_twin hd] at twin pending count
      refine ⟨t.swapSides, by rw [perform_twin_of_some action hd, h]; rfl, nofun, ?_⟩
      rw [State.swapSides_of_twin twin]
      exact ⟨fun _ => rfl, pending, count⟩

theorem State.nextEvent_of_nil {s : State} (h : s.pending = []) :
    s.nextEvent = (Config.schedule s.eventCount, { s with eventCount := s.eventCount + 1 }) := by
  rw [State.nextEvent, h]

/-- Settles O7: the step performs the next event, and choosing it touches no device. -/
theorem everyStepAnswersOnOneDevice : Obligations.EveryStepAnswersOnOneDevice := by
  intro s
  obtain ⟨t, h, self, twin, pending, count⟩ := perform_frame s.nextEvent.1 s.nextEvent.2
  obtain ⟨devEq, twinEq⟩ := s.nextEvent_devices
  refine ⟨t, h, fun hs => (self hs).trans twinEq, fun hs => (twin hs).trans devEq, fun e rest hp => ?_, fun hp => ?_⟩
  · rw [State.nextEvent_of_pending hp] at pending count ⊢
    exact ⟨rfl, pending, count⟩
  · rw [State.nextEvent_of_nil hp] at count ⊢
    exact ⟨rfl, count⟩

end Sys2Proof.Machine
end

section
/-! ### What a RESET leaves (70_reset_and_hazards.md R370 to R373) -/

namespace Sys2Proof.Machine

/-- A buffer byte's key is below the two buffers' size (10_state.md R45). -/
theorem bufKey_lt (p : Bool) {i : Nat} (hi : i < 528) : bufKey p i < 1056 := by
  cases p <;> simp [bufKey] <;> omega

namespace Device

/-! #### The effect left behind, by the outstanding request (R371) -/

theorem dropFlash_of_erase {d : Device} {b : Nat} (content : List Byte) (h : d.flashReq = some (.erase b)) :
    d.dropFlash content = d.setFlash (flashKey b 0 0) blockBytes content := by
  rw [dropFlash, h]

theorem dropFlash_of_program {d : Device} {b pg q : Nat} {bytes : List Byte} (content : List Byte)
    (h : d.flashReq = some (.program b pg q bytes)) :
    d.dropFlash content = d.setFlash (flashKey b pg q) 528 content := by
  rw [dropFlash, h]

theorem dropFlash_of_read {d : Device} {b pg q : Nat} (content : List Byte) (h : d.flashReq = some (.read b pg q)) :
    d.dropFlash content = d := by
  rw [dropFlash, h]

theorem dropBook_of_some {d : Device} {r : BookRequest} (took : Bool) (h : d.bookReq = some r) :
    d.dropBook took = if took then d.bookEffect r else d := by
  rw [dropBook, h]

/-- Of an outstanding bookkeeping request a RESET leaves the whole effect or none of it. -/
theorem resetStep_book_of_some {d : Device} {r : BookRequest} (draw : ResetDraw) (h : d.bookReq = some r) :
    (d.resetStep draw).usage = (if draw.bookTookEffect then d.bookEffect r else d).usage ∧
    (d.resetStep draw).flags = (if draw.bookTookEffect then d.bookEffect r else d).flags := by
  obtain ⟨_, book⟩ := d.resetStep_stores draw
  rwa [dropBook_of_some _ h] at book

theorem resetStep_book_of_markBad {d : Device} {b : Nat} (draw : ResetDraw) (h : d.bookReq = some (.markBad b)) :
    (d.resetStep draw).flags = d.flags ∧
    (d.resetStep draw).usage = (if draw.bookTookEffect then d.setBlockStatus b .bad else d).usage := by
  obtain ⟨usage, flags⟩ := resetStep_book_of_some draw h
  refine ⟨flags.trans ?_, usage⟩
  split <;> rfl

theorem resetStep_book_of_setFlag {d : Device} {f : Flag} (draw : ResetDraw) (h : d.bookReq = some (.setFlag f)) :
    (d.resetStep draw).usage = d.usage ∧
    (d.resetStep draw).flags = if draw.bookTookEffect then d.flags.set f else d.flags := by
  obtain ⟨usage, flags⟩ := resetStep_book_of_some draw h
  refine ⟨usage.trans ?_, flags.trans ?_⟩ <;> split <;> rfl

theorem blockStatus_congr {d e : Device} (h : e.usage = d.usage) (c : Nat) : e.blockStatus c = d.blockStatus c := by
  rw [blockStatus, h, blockStatus]

/-- The buffers after a RESET hold the drawn bytes (70_reset_and_hazards.md R373). -/
theorem bufByte_resetStep (d : Device) (draw : ResetDraw) (p : Bool) {i : Nat} (hi : i < 528)
    (hl : draw.buffers.length = 1056) :
    (d.resetStep draw).bufByte p i = draw.buffers.getD (bufKey p i) 0 := by
  have inRange := bufKey_lt p hi
  have written : (d.resetStep draw).buf = Memory.writeBytes .buffers [] 0 (draw.buffers.take 1056) := rfl
  rw [bufByte, written, List.take_of_length_le hl.le, Memory.read_writeBytes, if_pos (by omega), Nat.sub_zero]

end Device

/-! #### The draw that leaves given contents -/

/-- The first `n` bytes of `g`. -/
def firstBytes (n : Nat) (g : Nat → Byte) : List Byte := (List.range n).map g

@[simp] theorem length_firstBytes (n : Nat) (g : Nat → Byte) : (firstBytes n g).length = n := by simp [firstBytes]

theorem getD_firstBytes (g : Nat → Byte) {n i : Nat} (x : Byte) (hi : i < n) : (firstBytes n g).getD i x = g i := by
  simp [firstBytes, List.getD_eq_getElem?_getD, hi]

/-- The draw of a RESET that leaves `f` in the buffers and `g` in what an outstanding flash request names. -/
def ResetDraw.leaving (f : Bool → Nat → Byte) (g : Nat → Byte) (took : Bool) : ResetDraw where
  buffers := firstBytes 1056 fun k => f (decide (528 ≤ k)) (k % 528)
  flashContent := firstBytes blockBytes g
  bookTookEffect := took

theorem Device.bufByte_resetStep_leaving (d : Device) (f : Bool → Nat → Byte) (g : Nat → Byte) (took : Bool) (p : Bool)
    {i : Nat} (hi : i < 528) : (d.resetStep (.leaving f g took)).bufByte p i = f p i := by
  have buffer : decide (528 ≤ bufKey p i) = p := by cases p <;> simp [bufKey, hi]
  have index : bufKey p i % 528 = i := by cases p <;> simp [bufKey, Nat.mod_eq_of_lt hi]
  rw [d.bufByte_resetStep _ p hi (length_firstBytes _ _), ResetDraw.leaving, getD_firstBytes _ _ (bufKey_lt p hi), buffer,
    index]

/-- A block or paragraph that an abandoned erase or program named holds the drawn bytes. -/
theorem Device.read_setFlash_leaving (d : Device) (f : Bool → Nat → Byte) (g : Nat → Byte) (took : Bool) (base : Nat)
    {n i : Nat} (hi : i < n) (hn : n ≤ blockBytes) :
    Memory.read .flash (d.setFlash base n (ResetDraw.leaving f g took).flashContent).flash (base + i) = g i := by
  rw [d.read_setFlash_inside base _ hi, ResetDraw.leaving, getD_firstBytes _ _ (hi.trans_le hn)]

/-! #### The obligation -/

/-- Settles O52: what a RESET leaves of each port's request, and the draw that leaves given contents. -/
theorem resetGivesTheResetState : Obligations.ResetGivesTheResetState := by
  refine ⟨fun s draw => ⟨s.withDev (s.dev.resetStep draw), rfl, rfl, ?_, ?_⟩,
    fun s f g took => ⟨.leaving f g took, s.withDev (s.dev.resetStep (.leaving f g took)), rfl,
      fun p i hi => s.dev.bufByte_resetStep_leaving f g took p hi, ?_, ?_⟩⟩
  · dsimp only [State.withDev_dev]
    obtain ⟨flash, _⟩ := s.dev.resetStep_stores draw
    rw [flash]
    cases hr : s.dev.flashReq with
    | none => exact congrArg Device.flash (Device.dropFlash_of_none _ hr)
    | some r =>
      cases r with
      | erase b =>
        rw [Device.dropFlash_of_erase _ hr]
        exact fun a ha => s.dev.read_setFlash_outside _ ha
      | program b pg q bytes =>
        rw [Device.dropFlash_of_program _ hr]
        exact fun a ha => s.dev.read_setFlash_outside _ ha
      | read b pg q => exact congrArg Device.flash (Device.dropFlash_of_read _ hr)
  · dsimp only [State.withDev_dev]
    cases hr : s.dev.bookReq with
    | none => exact resetStep_book draw hr
    | some r =>
      cases r with
      | blockStatus | flagIsSet => simpa [Device.bookEffect] using Device.resetStep_book_of_some draw hr
      | markBad b =>
        obtain ⟨flags, usage⟩ := Device.resetStep_book_of_markBad draw hr
        refine ⟨flags, ?_⟩
        split at usage
        · exact .inr fun c => (Device.blockStatus_congr usage c).trans (s.dev.blockStatus_setBlockStatus b c .bad)
        · exact .inl usage
      | setFlag f =>
        obtain ⟨usage, flags⟩ := Device.resetStep_book_of_setFlag draw hr
        refine ⟨usage, ?_⟩
        split at flags
        · exact .inr fun g => (congrArg (Flags.get · g) flags).trans (s.dev.flags.get_set f g)
        · exact .inl flags
  · dsimp only [State.withDev_dev]
    obtain ⟨flash, _⟩ := s.dev.resetStep_stores (.leaving f g took)
    rw [flash]
    cases hr : s.dev.flashReq with
    | none => trivial
    | some r =>
      cases r with
      | erase b =>
        rw [Device.dropFlash_of_erase _ hr]
        exact fun i hi => s.dev.read_setFlash_leaving f g took _ hi le_rfl
      | program b pg q bytes =>
        rw [Device.dropFlash_of_program _ hr]
        exact fun i hi => s.dev.read_setFlash_leaving f g took _ hi (by decide)
      | read b pg q => trivial
  · dsimp only [State.withDev_dev]
    cases hr : s.dev.bookReq with
    | none => trivial
    | some r =>
      cases r with
      | blockStatus | flagIsSet => trivial
      | markBad b =>
        obtain ⟨_, usage⟩ := Device.resetStep_book_of_markBad (.leaving f g took) hr
        refine (Device.blockStatus_congr usage b).trans ?_
        cases took with
        | false => rfl
        | true => exact (s.dev.blockStatus_setBlockStatus b b .bad).trans (if_pos rfl)
      | setFlag h =>
        obtain ⟨_, flags⟩ := Device.resetStep_book_of_setFlag (.leaving f g took) hr
        refine (congrArg (Flags.get · h) flags).trans ?_
        cases took with
        | false => rfl
        | true => exact (s.dev.flags.get_set h h).trans (if_pos rfl)

end Sys2Proof.Machine
end
